-- ==== Sys2Proof/Word.lean ====
section
/-! DEFINITION. The word types of des_core, one name for each width of 00_scope.md R6 and 30_encoding.md R60, R61. -/

namespace Sys2Proof

/-- One byte of a block or key (20_memory.md R41). -/
abbrev Byte := BitVec 8

/-- A 64-bit block: `data_in`, `data_out` (00_scope.md R6, BLOCK_BITS). -/
abbrev Block := BitVec 64

/-- A 64-bit key with its parity bits: `key_in` (00_scope.md R6, KEY_BITS). -/
abbrev Key := BitVec 64

/-- One 32-bit half of the Feistel network (00_scope.md R6, HALF_BITS). -/
abbrev Half := BitVec 32

/-- One 28-bit half of the key schedule (00_scope.md R6, KEY_HALF_BITS). -/
abbrev KeyHalf := BitVec 28

/-- A 48-bit round subkey (00_scope.md R6, SUBKEY_BITS). -/
abbrev Subkey := BitVec 48

/-- The 131-bit input vector IN sampled at one edge (30_encoding.md R60). -/
abbrev InVec := BitVec 131

/-- The 66-bit output vector OUT driven between edges (30_encoding.md R61). -/
abbrev OutVec := BitVec 66

/-- The direction of an operation: the `decrypt` port and the register `dir`, 0 encrypt and 1 decrypt
(10_state.md R21, R28). -/
inductive Direction where
  | encrypt
  | decrypt
  deriving DecidableEq, Repr

/-- The register bit a direction stands for (10_state.md R28). -/
def Direction.bit : Direction → BitVec 1
  | .encrypt => 0#1
  | .decrypt => 1#1

end Sys2Proof
end

