-- ==== Sys2Proof/Syntax.lean ====
section
/-! DEFINITION. The commands of des_core: one constructor for each row of spec/opcode_table.json. -/

namespace Sys2Proof

/-- A command: what one IN vector selects (30_encoding.md R62), with every field of the vector that its row leaves free.
A field the command ignores (30_encoding.md R65) is carried too, so that no bit of IN is lost; the meanings do not read
it (DESIGN CHOICE, log 6). -/
inductive Instr where
  /-- RESET, mnemonic RST, CTL = 1xx (70_reset_and_hazards.md R170). STA, DIR, KEY and DAT are ignored. -/
  | rst (sta dir : BitVec 1) (key : Key) (dat : Block)
  /-- ENCRYPT, mnemonic ENC, CTL = 010: key k, block b (43_commands.md R131). -/
  | enc (key : Key) (dat : Block)
  /-- DECRYPT, mnemonic DEC, CTL = 011: key k, block b, the ciphertext (43_commands.md R132). -/
  | dec (key : Key) (dat : Block)
  /-- IDLE, mnemonic NOP, CTL = 00x (43_commands.md R133). DIR, KEY and DAT are ignored. -/
  | nop (dir : BitVec 1) (key : Key) (dat : Block)
  deriving DecidableEq, Repr

/-- The assembler mnemonic (30_encoding.md R67). -/
def Instr.mnemonic : Instr → String
  | .rst _ _ _ _ => "RST"
  | .enc _ _ => "ENC"
  | .dec _ _ => "DEC"
  | .nop _ _ _ => "NOP"

end Sys2Proof
end

