-- ==== Sys2Proof/WellFormed.lean ====
section
/-! DEFINITION. Well-formed commands, and the stricter form the assembler notation writes. -/

namespace Sys2Proof

/-- "Every IN vector is a valid command" (30_encoding.md R66): every field has exactly its width by its type, and no value
of a field is illegal, so every term of `Instr` is well formed. -/
def Instr.wellFormed : Instr → Bool
  | .rst _ _ _ _ => true
  | .enc _ _ => true
  | .dec _ _ => true
  | .nop _ _ _ => true

/-- The form 30_encoding.md R67 writes: the fields a command ignores are written as 0. A command out of this form is
valid all the same (R65, R66); it only has no spelling in the notation. -/
def Instr.canonical : Instr → Bool
  | .rst sta dir key dat => sta == 0#1 && dir == 0#1 && key == 0#64 && dat == 0#64
  | .enc _ _ => true
  | .dec _ _ => true
  | .nop dir key dat => dir == 0#1 && key == 0#64 && dat == 0#64

end Sys2Proof
end

