-- ==== Sys2Proof/Decode.lean ====
section
/-! DEFINITION. From an IN vector to a command and back (30_encoding.md R60-R66), and the images of an IN vector as a
number and as bytes. -/

namespace Sys2Proof

/-! The fields of IN (30_encoding.md R60). -/

/-- RST = IN[130], the port `rst`. -/
def fieldRST (v : InVec) : BitVec 1 := v.extractLsb' 130 1
/-- STA = IN[129], the port `start`. -/
def fieldSTA (v : InVec) : BitVec 1 := v.extractLsb' 129 1
/-- DIR = IN[128], the port `decrypt`. -/
def fieldDIR (v : InVec) : BitVec 1 := v.extractLsb' 128 1
/-- KEY = IN[127:64], the port `key_in`. -/
def fieldKEY (v : InVec) : Key := v.extractLsb' 64 64
/-- DAT = IN[63:0], the port `data_in`. -/
def fieldDAT (v : InVec) : Block := v.extractLsb' 0 64
/-- CTL = IN[130:128] = RST || STA || DIR. -/
def fieldCTL (v : InVec) : BitVec 3 := v.extractLsb' 128 3

/-- The command an IN vector selects: total, RESET before every other field (30_encoding.md R62). -/
def decode (v : InVec) : Instr :=
  if fieldRST v = 1#1 then .rst (fieldSTA v) (fieldDIR v) (fieldKEY v) (fieldDAT v)
  else if fieldSTA v = 1#1 then
    if fieldDIR v = 0#1 then .enc (fieldKEY v) (fieldDAT v) else .dec (fieldKEY v) (fieldDAT v)
  else .nop (fieldDIR v) (fieldKEY v) (fieldDAT v)

/-- Why an image of an IN vector is not one. No IN vector is rejected (30_encoding.md R66): these concern numbers and byte
lists only (log 5). -/
inductive DecodeError where
  /-- A number with a bit above bit 130: "bit 131 is always 0" (30_encoding.md R60). -/
  | bitAboveVector
  /-- A byte list that is not the 17 bytes of one vector (DESIGN CHOICE, log 5). -/
  | wrongLength
  deriving DecidableEq, Repr

/-- The command of an IN vector given as a number, bit 0 its least significant bit. -/
def decodeNumber (w : Nat) : Except DecodeError Instr :=
  if w < 2 ^ 131 then .ok (decode (BitVec.ofNat 131 w)) else .error .bitAboveVector

/-- The number a byte list spells, its first byte the most significant: the order in which 30_encoding.md R60 writes the
hex digits of IN and 20_memory.md R41 places the bytes of a block. -/
def numberOfBytes (bs : List Byte) : Nat := bs.foldl (fun acc b => 256 * acc + b.toNat) 0

/-- The command of an IN vector given as 17 bytes, most significant first (DESIGN CHOICE, log 5). -/
def decodeBytes (bs : List Byte) : Except DecodeError Instr :=
  if bs.length = 17 then decodeNumber (numberOfBytes bs) else .error .wrongLength

/-- The host's question: the command whose bits are `w`, in the opcode table's numbering, `nbits` of them given and the
rest 0. -/
def decodeTableWord (nbits w : Nat) : Option Instr := (decodeNumber (w % 2 ^ nbits)).toOption

/-! The encoder, written from the opcode table's patterns. -/

/-- The IN vector of a command: `1sik…d…`, `010k…d…`, `011k…d…`, `00ik…d…` (opcode_table.json, 30_encoding.md R60, R62). -/
def encode : Instr → InVec
  | .rst sta dir key dat => 1#1 ++ sta ++ dir ++ key ++ dat
  | .enc key dat => 0b010#3 ++ key ++ dat
  | .dec key dat => 0b011#3 ++ key ++ dat
  | .nop dir key dat => 0b00#2 ++ dir ++ key ++ dat

/-- The 17 bytes of a command's IN vector, most significant first (DESIGN CHOICE, log 5). -/
def encodeBytes (i : Instr) : List Byte :=
  (List.range 17).map fun j => ((encode i).setWidth 136).extractLsb' (128 - 8 * j) 8

/-! The rows of 30_encoding.md R62, over the whole vector as opcode_table.json gives them. -/

/-- One row of the opcode table: IN selects it when IN and `mask` is `pattern`. -/
structure CommandRow where
  mnemonic : String
  mask : InVec
  pattern : InVec
  deriving DecidableEq, Repr

/-- Does the vector select the row? -/
def CommandRow.selectedBy (r : CommandRow) (v : InVec) : Bool := v &&& r.mask == r.pattern

/-- The four rows of opcode_table.json. -/
def commandRows : List CommandRow :=
  [ ⟨"RST", 0x400000000000000000000000000000000#131, 0x400000000000000000000000000000000#131⟩,
    ⟨"ENC", 0x700000000000000000000000000000000#131, 0x200000000000000000000000000000000#131⟩,
    ⟨"DEC", 0x700000000000000000000000000000000#131, 0x300000000000000000000000000000000#131⟩,
    ⟨"NOP", 0x600000000000000000000000000000000#131, 0x000000000000000000000000000000000#131⟩ ]

end Sys2Proof
end

