-- ==== Sys2Proof/Config.lean ====
section
/-! DEFINITION. What is fixed for the machine: the parameters of 00_scope.md R6 that are numbers of edges or rounds, and
the free values of what the spec leaves open. A free value has no body, so nothing can be proved of its value. -/

namespace Sys2Proof.Config

/-- ROUNDS of 00_scope.md R6. -/
def rounds : Nat := 16

/-- LATENCY of 00_scope.md R6: edges from the accept edge to the completion edge (70_reset_and_hazards.md R179). -/
def latency : Nat := 16

/-- Edges from one accept to the earliest next accept (70_reset_and_hazards.md R179). -/
def throughput : Nat := 17

/-- FREE VALUE, DESIGN CHOICE, log 2. What the host drives at an edge that `State.inputs` says nothing about: "at each
edge it may present any value on any input" (10_state.md R20). The argument is the number of the draw. -/
opaque hostInput : Nat → InVec

/-! FREE VALUES, DESIGN CHOICE, log 3: the power-on value of each register, "an unspecified value, each chosen
independently" (70_reset_and_hazards.md R171). The argument is the number of the draw. -/

/-- Power-on value of `busy_r` (70_reset_and_hazards.md R171). -/
opaque powerOnBusy : Nat → Bool
/-- Power-on value of `done_r` (70_reset_and_hazards.md R171). -/
opaque powerOnDone : Nat → Bool
/-- Power-on value of `dir`, as its register bit: 1 is decrypt (70_reset_and_hazards.md R171). -/
opaque powerOnDir : Nat → Bool
/-- Power-on value of `rnd` (70_reset_and_hazards.md R171). -/
opaque powerOnRnd : Nat → BitVec 4
/-- Power-on value of `L` (70_reset_and_hazards.md R171). -/
opaque powerOnL : Nat → Half
/-- Power-on value of `R` (70_reset_and_hazards.md R171). -/
opaque powerOnR : Nat → Half
/-- Power-on value of `C` (70_reset_and_hazards.md R171). -/
opaque powerOnC : Nat → KeyHalf
/-- Power-on value of `D` (70_reset_and_hazards.md R171). -/
opaque powerOnD : Nat → KeyHalf
/-- Power-on value of `dout` (70_reset_and_hazards.md R171). -/
opaque powerOnDout : Nat → Block

end Sys2Proof.Config
end

