-- ==== Sys2Proof/Machine/State.lean ====
section
/-! DEFINITION. The state of des_core (10_state.md R23), the host's coming inputs beside it, the state after reset, and the
reasons a step can stop, of which the spec gives none. -/

namespace Sys2Proof.Machine

/-- The nine registers of 10_state.md R23 under the spec's own names, and two fields of the model's own, `inputs` and
`draw`, that stand for the host (log 1, log 2). There is no memory (20_memory.md R40). -/
structure State where
  /-- Operation in progress, 1 bit (10_state.md R26). -/
  busy_r : Bool
  /-- Completion pulse, 1 bit (10_state.md R27). -/
  done_r : Bool
  /-- Latched direction, 1 bit (10_state.md R28). -/
  dir : Direction
  /-- Round counter: rounds done so far (10_state.md R25). -/
  rnd : BitVec 4
  /-- Left data half (10_state.md R24). -/
  L : Half
  /-- Right data half (10_state.md R24). -/
  R : Half
  /-- Left key half (10_state.md R29). -/
  C : KeyHalf
  /-- Right key half (10_state.md R29). -/
  D : KeyHalf
  /-- Output register (10_state.md R30). -/
  dout : Block
  /-- MODEL'S OWN, log 1: the IN vectors the host will drive at the coming edges, soonest first. -/
  inputs : List InVec
  /-- MODEL'S OWN, log 2: the number of the next free value. -/
  draw : Nat
  deriving DecidableEq, Repr

/-- No fault exists: "It never faults, never refuses and is never stuck" (43_commands.md R130; 60_exceptions.md R150). -/
inductive Fault where
  deriving DecidableEq, Repr

/-- Reasons to have no meaning for a command. -/
inductive Refusal where
  /-- Raised by an arm of `exec` for a command not modelled yet, and safe. No arm raises it: every command has its meaning. -/
  | notModelled (mnemonic : String)
  deriving DecidableEq, Repr

/-- The state after a RESET edge: every register 0 (10_state.md R23, 70_reset_and_hazards.md R170, R173). `inputs` is empty
and `draw` is 0: DESIGN CHOICE for the model's own two fields, log 4. -/
def State.reset : State where
  busy_r := false
  done_r := false
  dir := .encrypt
  rnd := 0#4
  L := 0#32
  R := 0#32
  C := 0#28
  D := 0#28
  dout := 0#64
  inputs := []
  draw := 0

end Sys2Proof.Machine
end

