-- ==== Sys2Proof/Machine/Flags.lean ====
section
/-! DEFINITION. The two status flags `busy_r` and `done_r` (10_state.md R26, R27): what each rule makes of them; and the
output ports, which are registers read out (10_state.md R22). -/

namespace Sys2Proof.Machine

/-- The two status flags together. -/
structure Flags where
  busy : Bool
  done : Bool
  deriving DecidableEq, Repr

/-- Write both status flags. -/
def State.setFlags (s : State) (fl : Flags) : State := { s with busy_r := fl.busy, done_r := fl.done }

/-- RESET: both 0 (70_reset_and_hazards.md R170). -/
def flagsAfterReset : Flags := ⟨false, false⟩

/-- An accept: busy 1, done 0, "even if it was 1 in this cycle" (43_commands.md R131, R132). -/
def flagsAfterAccept : Flags := ⟨true, false⟩

/-- IDLE: done 0, busy not written (43_commands.md R133). -/
def flagsAfterIdle (s : State) : Flags := ⟨s.busy_r, false⟩

/-- Is this round edge the completion, the one that executes round 16 (43_commands.md R134, R135)? -/
def State.lastRound (s : State) : Bool := s.rnd == 15#4

/-- A round edge: done 0 and busy not written, but at completion busy 0 and done 1 (43_commands.md R134, R135). -/
def flagsAfterRound (s : State) : Flags := if s.lastRound then ⟨false, true⟩ else ⟨s.busy_r, false⟩

/-- The port `busy` (10_state.md R22). -/
def State.busy (s : State) : Bool := s.busy_r

/-- The port `done` (10_state.md R22). -/
def State.done (s : State) : Bool := s.done_r

/-- The port `data_out` (10_state.md R22). -/
def State.data_out (s : State) : Block := s.dout

/-- OUT = busy || done || data_out (30_encoding.md R61). Reading it changes nothing (20_memory.md R46). -/
def State.out (s : State) : OutVec := BitVec.ofBool s.busy ++ BitVec.ofBool s.done ++ s.data_out

end Sys2Proof.Machine
end

