-- ==== Sys2Proof/Machine/Operands.lean ====
section
/-! DEFINITION. Bit positions, table permutations and rotations (00_scope.md R8-R10), and the bytes and parity bits of the
64-bit operands (20_memory.md R41-R43). -/

namespace Sys2Proof.Machine

/-- DES position p, 1 the most significant: "Position p of an n-bit vector v is v[n-p]" (00_scope.md R8). Positions outside
1..n are asked for by no rule (log 9). -/
def position {n : Nat} (v : BitVec n) (p : Nat) : Bool := v.getLsbD (n - p)

/-- Perm_T: output position i takes input position T[i] (00_scope.md R9). The result is built from its most significant
bit on, one entry of T at a time; `m` is the number of entries of T. -/
def permute {n : Nat} (m : Nat) (T : List Nat) (v : BitVec n) : BitVec m :=
  T.foldl (fun w p => w.shiftConcat (position v p)) 0#m

/-- rotl28 (00_scope.md R10), for s in {0, 1, 2} (log 9). -/
def rotl28 (x : KeyHalf) (s : Nat) : KeyHalf := x.rotateLeft s

/-- rotr28 (00_scope.md R10), for s in {0, 1, 2} (log 9). -/
def rotr28 (x : KeyHalf) (s : Nat) : KeyHalf := x.rotateRight s

/-- Byte b of a block or key: port bits [63-8b : 56-8b], b in 0..7 (20_memory.md R41). -/
def byteOf (v : BitVec 64) (b : Nat) : Byte := v.extractLsb' (56 - 8 * b) 8

/-- "The 64-bit port value is the big-endian reading of the 8-byte sequence" (20_memory.md R41). -/
def ofBytes (b0 b1 b2 b3 b4 b5 b6 b7 : Byte) : BitVec 64 := b0 ++ b1 ++ b2 ++ b3 ++ b4 ++ b5 ++ b6 ++ b7

/-- The parity bits of a key: port bits 56, 48, 40, 32, 24, 16, 8 and 0 (20_memory.md R43). -/
def parityMask : Key := 0x0101010101010101#64

end Sys2Proof.Machine
end

