-- ==== Sys2Proof/Machine/Tables.lean ====
section
/-! DEFINITION. The constant tables (40_tables.md R80-R96): fixed logic, no state (20_memory.md R47). -/

namespace Sys2Proof.Machine

/-- Contents of IP (40_tables.md R80), one table row a line. -/
def tableIP : List Nat :=
  [ 58, 50, 42, 34, 26, 18, 10, 2,
    60, 52, 44, 36, 28, 20, 12, 4,
    62, 54, 46, 38, 30, 22, 14, 6,
    64, 56, 48, 40, 32, 24, 16, 8,
    57, 49, 41, 33, 25, 17, 9, 1,
    59, 51, 43, 35, 27, 19, 11, 3,
    61, 53, 45, 37, 29, 21, 13, 5,
    63, 55, 47, 39, 31, 23, 15, 7 ]

/-- IP, the initial permutation: 64 bits to 64 bits (40_tables.md R80). -/
def IP (v : BitVec 64) : BitVec 64 := permute 64 tableIP v

/-- Contents of FP (40_tables.md R81), one table row a line. -/
def tableFP : List Nat :=
  [ 40, 8, 48, 16, 56, 24, 64, 32,
    39, 7, 47, 15, 55, 23, 63, 31,
    38, 6, 46, 14, 54, 22, 62, 30,
    37, 5, 45, 13, 53, 21, 61, 29,
    36, 4, 44, 12, 52, 20, 60, 28,
    35, 3, 43, 11, 51, 19, 59, 27,
    34, 2, 42, 10, 50, 18, 58, 26,
    33, 1, 41, 9, 49, 17, 57, 25 ]

/-- FP, the inverse of IP: 64 bits to 64 bits (40_tables.md R81). -/
def FP (v : BitVec 64) : BitVec 64 := permute 64 tableFP v

/-- Contents of E (40_tables.md R82), one table row a line. -/
def tableE : List Nat :=
  [ 32, 1, 2, 3, 4, 5,
    4, 5, 6, 7, 8, 9,
    8, 9, 10, 11, 12, 13,
    12, 13, 14, 15, 16, 17,
    16, 17, 18, 19, 20, 21,
    20, 21, 22, 23, 24, 25,
    24, 25, 26, 27, 28, 29,
    28, 29, 30, 31, 32, 1 ]

/-- E, the expansion: 32 bits to 48 bits (40_tables.md R82). -/
def E (v : BitVec 32) : BitVec 48 := permute 48 tableE v

/-- Contents of P (40_tables.md R83), one table row a line. -/
def tableP : List Nat :=
  [ 16, 7, 20, 21,
    29, 12, 28, 17,
    1, 15, 23, 26,
    5, 18, 31, 10,
    2, 8, 24, 14,
    32, 27, 3, 9,
    19, 13, 30, 6,
    22, 11, 4, 25 ]

/-- P, the round permutation: 32 bits to 32 bits (40_tables.md R83). -/
def P (v : BitVec 32) : BitVec 32 := permute 32 tableP v

/-- Contents of PC1 (40_tables.md R84), one table row a line. -/
def tablePC1 : List Nat :=
  [ 57, 49, 41, 33, 25, 17, 9,
    1, 58, 50, 42, 34, 26, 18,
    10, 2, 59, 51, 43, 35, 27,
    19, 11, 3, 60, 52, 44, 36,
    63, 55, 47, 39, 31, 23, 15,
    7, 62, 54, 46, 38, 30, 22,
    14, 6, 61, 53, 45, 37, 29,
    21, 13, 5, 28, 20, 12, 4 ]

/-- PC1, permuted choice 1: 64 bits to 56 bits (40_tables.md R84). -/
def PC1 (v : BitVec 64) : BitVec 56 := permute 56 tablePC1 v

/-- Contents of PC2 (40_tables.md R85), one table row a line. -/
def tablePC2 : List Nat :=
  [ 14, 17, 11, 24, 1, 5,
    3, 28, 15, 6, 21, 10,
    23, 19, 12, 4, 26, 8,
    16, 7, 27, 20, 13, 2,
    41, 52, 31, 37, 47, 55,
    30, 40, 51, 45, 33, 48,
    44, 49, 39, 56, 34, 53,
    46, 42, 50, 36, 29, 32 ]

/-- PC2, permuted choice 2: 56 bits to 48 bits (40_tables.md R85). -/
def PC2 (v : BitVec 56) : BitVec 48 := permute 48 tablePC2 v

/-- SHIFT, the left-rotation schedule of encryption, entries 1 to 16 (40_tables.md R86). -/
def tableSHIFT : List Nat := [1, 1, 2, 2, 2, 2, 2, 2, 1, 2, 2, 2, 2, 2, 2, 1]

/-- RSHIFT, the right-rotation schedule of decryption, entries 1 to 16 (40_tables.md R87). -/
def tableRSHIFT : List Nat := [0, 1, 2, 2, 2, 2, 2, 2, 1, 2, 2, 2, 2, 2, 2, 1]

/-- SHIFT[i], i in 1..16 (40_tables.md R86); other i are asked for by no rule (log 9). -/
def SHIFT (i : Nat) : Nat := tableSHIFT.getD (i - 1) 0

/-- RSHIFT[i], i in 1..16 (40_tables.md R87); other i are asked for by no rule (log 9). -/
def RSHIFT (i : Nat) : Nat := tableRSHIFT.getD (i - 1) 0

/-- S-box S1, rows 0 to 3 (40_tables.md R89). -/
def tableS1 : List (List Nat) :=
  [ [14, 4, 13, 1, 2, 15, 11, 8, 3, 10, 6, 12, 5, 9, 0, 7],
    [0, 15, 7, 4, 14, 2, 13, 1, 10, 6, 12, 11, 9, 5, 3, 8],
    [4, 1, 14, 8, 13, 6, 2, 11, 15, 12, 9, 7, 3, 10, 5, 0],
    [15, 12, 8, 2, 4, 9, 1, 7, 5, 11, 3, 14, 10, 0, 6, 13] ]

/-- S-box S2, rows 0 to 3 (40_tables.md R90). -/
def tableS2 : List (List Nat) :=
  [ [15, 1, 8, 14, 6, 11, 3, 4, 9, 7, 2, 13, 12, 0, 5, 10],
    [3, 13, 4, 7, 15, 2, 8, 14, 12, 0, 1, 10, 6, 9, 11, 5],
    [0, 14, 7, 11, 10, 4, 13, 1, 5, 8, 12, 6, 9, 3, 2, 15],
    [13, 8, 10, 1, 3, 15, 4, 2, 11, 6, 7, 12, 0, 5, 14, 9] ]

/-- S-box S3, rows 0 to 3 (40_tables.md R91). -/
def tableS3 : List (List Nat) :=
  [ [10, 0, 9, 14, 6, 3, 15, 5, 1, 13, 12, 7, 11, 4, 2, 8],
    [13, 7, 0, 9, 3, 4, 6, 10, 2, 8, 5, 14, 12, 11, 15, 1],
    [13, 6, 4, 9, 8, 15, 3, 0, 11, 1, 2, 12, 5, 10, 14, 7],
    [1, 10, 13, 0, 6, 9, 8, 7, 4, 15, 14, 3, 11, 5, 2, 12] ]

/-- S-box S4, rows 0 to 3 (40_tables.md R92). -/
def tableS4 : List (List Nat) :=
  [ [7, 13, 14, 3, 0, 6, 9, 10, 1, 2, 8, 5, 11, 12, 4, 15],
    [13, 8, 11, 5, 6, 15, 0, 3, 4, 7, 2, 12, 1, 10, 14, 9],
    [10, 6, 9, 0, 12, 11, 7, 13, 15, 1, 3, 14, 5, 2, 8, 4],
    [3, 15, 0, 6, 10, 1, 13, 8, 9, 4, 5, 11, 12, 7, 2, 14] ]

/-- S-box S5, rows 0 to 3 (40_tables.md R93). -/
def tableS5 : List (List Nat) :=
  [ [2, 12, 4, 1, 7, 10, 11, 6, 8, 5, 3, 15, 13, 0, 14, 9],
    [14, 11, 2, 12, 4, 7, 13, 1, 5, 0, 15, 10, 3, 9, 8, 6],
    [4, 2, 1, 11, 10, 13, 7, 8, 15, 9, 12, 5, 6, 3, 0, 14],
    [11, 8, 12, 7, 1, 14, 2, 13, 6, 15, 0, 9, 10, 4, 5, 3] ]

/-- S-box S6, rows 0 to 3 (40_tables.md R94). -/
def tableS6 : List (List Nat) :=
  [ [12, 1, 10, 15, 9, 2, 6, 8, 0, 13, 3, 4, 14, 7, 5, 11],
    [10, 15, 4, 2, 7, 12, 9, 5, 6, 1, 13, 14, 0, 11, 3, 8],
    [9, 14, 15, 5, 2, 8, 12, 3, 7, 0, 4, 10, 1, 13, 11, 6],
    [4, 3, 2, 12, 9, 5, 15, 10, 11, 14, 1, 7, 6, 0, 8, 13] ]

/-- S-box S7, rows 0 to 3 (40_tables.md R95). -/
def tableS7 : List (List Nat) :=
  [ [4, 11, 2, 14, 15, 0, 8, 13, 3, 12, 9, 7, 5, 10, 6, 1],
    [13, 0, 11, 7, 4, 9, 1, 10, 14, 3, 5, 12, 2, 15, 8, 6],
    [1, 4, 11, 13, 12, 3, 7, 14, 10, 15, 6, 8, 0, 5, 9, 2],
    [6, 11, 13, 8, 1, 4, 10, 7, 9, 5, 0, 15, 14, 2, 3, 12] ]

/-- S-box S8, rows 0 to 3 (40_tables.md R96). -/
def tableS8 : List (List Nat) :=
  [ [13, 2, 8, 4, 6, 15, 11, 1, 10, 9, 3, 14, 5, 0, 12, 7],
    [1, 15, 13, 8, 10, 3, 7, 4, 12, 5, 6, 11, 0, 14, 9, 2],
    [7, 11, 4, 1, 9, 12, 14, 2, 0, 6, 10, 13, 15, 3, 5, 8],
    [2, 1, 14, 7, 4, 10, 8, 13, 15, 12, 9, 0, 3, 5, 6, 11] ]

/-- row(b) = b[5] || b[0] (40_tables.md R88). -/
def sboxRow (b : BitVec 6) : BitVec 2 := b.extractLsb' 5 1 ++ b.extractLsb' 0 1

/-- col(b) = b[4:1] (40_tables.md R88). -/
def sboxCol (b : BitVec 6) : BitVec 4 := b.extractLsb' 1 4

/-- Sbox_j(b) = S_j[row(b)][col(b)], for the table of one box (40_tables.md R88). Every row and column is inside the
table (log 9). -/
def lookup (S : List (List Nat)) (b : BitVec 6) : BitVec 4 :=
  BitVec.ofNat 4 ((S.getD (sboxRow b).toNat []).getD (sboxCol b).toNat 0)

/-- The table S_j, j in 1..8 (40_tables.md R89-R96); other j are asked for by no rule (log 9). -/
def tableS (j : Nat) : List (List Nat) :=
  [tableS1, tableS2, tableS3, tableS4, tableS5, tableS6, tableS7, tableS8].getD (j - 1) []

/-- Sbox_j, j in 1..8: 6 bits to 4 bits (40_tables.md R88). -/
def Sbox (j : Nat) (b : BitVec 6) : BitVec 4 := lookup (tableS j) b

end Sys2Proof.Machine
end

