-- ==== Sys2Proof/Machine/KeySchedule.lean ====
section
/-! DEFINITION. The key schedule (41_key_schedule.md): as a function of the key, and as one step of a key half. -/

namespace Sys2Proof.Machine

/-- C_0, the left half of PC1(k): output positions 1 to 28 (41_key_schedule.md R100). -/
def loadC (k : Key) : KeyHalf := (PC1 k).extractLsb' 28 28

/-- D_0, the right half of PC1(k): output positions 29 to 56 (41_key_schedule.md R100). -/
def loadD (k : Key) : KeyHalf := (PC1 k).extractLsb' 0 28

/-- What one round does to a key half: rotate left by SHIFT[i] for encryption, right by RSHIFT[i] for decryption, i in
1..16 (41_key_schedule.md R101, R102). -/
def rotateForRound (d : Direction) (i : Nat) (x : KeyHalf) : KeyHalf :=
  match d with
  | .encrypt => rotl28 x (SHIFT i)
  | .decrypt => rotr28 x (RSHIFT i)

/-- C_i of the encryption schedule (41_key_schedule.md R104). -/
def scheduleC (k : Key) : Nat → KeyHalf
  | 0 => loadC k
  | i + 1 => rotl28 (scheduleC k i) (SHIFT (i + 1))

/-- D_i of the encryption schedule (41_key_schedule.md R104). -/
def scheduleD (k : Key) : Nat → KeyHalf
  | 0 => loadD k
  | i + 1 => rotl28 (scheduleD k i) (SHIFT (i + 1))

/-- K_i = PC2(C_i || D_i), i in 1..16 (41_key_schedule.md R104). -/
def subkey (k : Key) (i : Nat) : Subkey := PC2 (scheduleC k i ++ scheduleD k i)

/-- KS(k) = [K_1, ..., K_16] (41_key_schedule.md R104). -/
def KS (k : Key) : List Subkey := (List.range 16).map fun j => subkey k (j + 1)

end Sys2Proof.Machine
end

