-- ==== Sys2Proof/Machine/RoundFunction.lean ====
section
/-! DEFINITION. The round function, the Feistel structure and DES as functions (42_round_function.md). -/

namespace Sys2Proof.Machine

/-- The 6-bit group B_j = X[53-6j : 48-6j], j in 1..8, B_1 the leftmost (42_round_function.md R112). -/
def group (X : BitVec 48) (j : Nat) : BitVec 6 := X.extractLsb' (48 - 6 * j) 6

/-- O_j = Sbox_j(B_j) (42_round_function.md R113). -/
def substituted (X : BitVec 48) (j : Nat) : BitVec 4 := Sbox j (group X j)

/-- The S-layer O_1 || ... || O_8 (42_round_function.md R114). -/
def Slayer (X : BitVec 48) : BitVec 32 :=
  substituted X 1 ++ substituted X 2 ++ substituted X 3 ++ substituted X 4 ++
    substituted X 5 ++ substituted X 6 ++ substituted X 7 ++ substituted X 8

/-- The round function f(R, K) = P(Slayer(E(R) xor K)) (42_round_function.md R110, R111, R115, R116). -/
def f (R : Half) (K : Subkey) : Half := P (Slayer (E R ^^^ K))

/-- Round(L, R, K) = (R, L xor f(R, K)) (42_round_function.md R117). -/
def feistelRound (halves : Half × Half) (K : Subkey) : Half × Half :=
  (halves.2, halves.1 ^^^ f halves.2 K)

/-- L_0 || R_0 = IP(b) (42_round_function.md R119). -/
def splitBlock (b : Block) : Half × Half := ((IP b).extractLsb' 32 32, (IP b).extractLsb' 0 32)

/-- The result block FP(R_16 || L_16): the halves in swapped order (42_round_function.md R118). -/
def joinHalves (halves : Half × Half) : Block := FP (halves.2 ++ halves.1)

/-- DES_core(k, b, [J_1..J_16]); the key enters through the subkeys alone (42_round_function.md R119). -/
def DES_core (_k : Key) (b : Block) (J : List Subkey) : Block :=
  joinHalves (J.foldl feistelRound (splitBlock b))

/-- DES_enc(k, b) (42_round_function.md R119). -/
def DES_enc (k : Key) (b : Block) : Block := DES_core k b (KS k)

/-- DES_dec(k, b): the subkeys in reverse order (42_round_function.md R119). -/
def DES_dec (k : Key) (b : Block) : Block := DES_core k b (KS k).reverse

end Sys2Proof.Machine
end

