-- ==== Sys2Proof/Machine/Ops.lean ====
section
/-! DEFINITION. The register writes of each edge rule (43_commands.md R130-R136, 70_reset_and_hazards.md R170). Every right
side reads the registers from before the edge (00_scope.md R11).

The block takes no exception and returns from none (60_exceptions.md R150, R154), and it has no memory (20_memory.md R40):
there is no operation for either. -/

namespace Sys2Proof.Machine

/-- RESET: every register of 10_state.md R23 to 0 (70_reset_and_hazards.md R170). -/
def resetRegs (s : State) : State :=
  State.setFlags
    { s with dir := .encrypt, rnd := 0#4, L := 0#32, R := 0#32, C := 0#28, D := 0#28, dout := 0#64 }
    flagsAfterReset

/-- An accept: L and R from IP(b), C and D from PC1(k), the direction latched, the counter cleared; `dout` unchanged
(43_commands.md R131, R132). -/
def accept (d : Direction) (k : Key) (b : Block) (s : State) : State :=
  State.setFlags
    { s with
      L := (splitBlock b).1, R := (splitBlock b).2, C := loadC k, D := loadD k, dir := d, rnd := 0#4 }
    flagsAfterAccept

/-- IDLE: `done_r` 0, every other register kept (43_commands.md R133). -/
def idleEdge (s : State) : State := s.setFlags (flagsAfterIdle s)

/-- The round number i = rnd + 1, 1..16 (43_commands.md R134). -/
def State.roundNumber (s : State) : Nat := s.rnd.toNat + 1

/-- C' of this round edge (43_commands.md R134). -/
def State.nextC (s : State) : KeyHalf := rotateForRound s.dir s.roundNumber s.C

/-- D' of this round edge (43_commands.md R134). -/
def State.nextD (s : State) : KeyHalf := rotateForRound s.dir s.roundNumber s.D

/-- K = PC2(C' || D'), combinational (43_commands.md R134, 10_state.md R29). -/
def State.roundKey (s : State) : Subkey := PC2 (s.nextC ++ s.nextD)

/-- The two data halves this round edge writes (43_commands.md R134, 42_round_function.md R117). -/
def State.nextHalves (s : State) : Half × Half := feistelRound (s.L, s.R) s.roundKey

/-- ROUND: one Feistel round and one key-schedule step; at `rnd` = 15 the completion also writes `dout` and the flags
(43_commands.md R134, R135). -/
def roundEdge (s : State) : State :=
  State.setFlags
    { s with
      L := s.nextHalves.1, R := s.nextHalves.2, C := s.nextC, D := s.nextD, rnd := s.rnd + 1#4,
      dout := if s.lastRound then joinHalves s.nextHalves else s.dout }
    (flagsAfterRound s)

/-- The part of the edge dispatch every command but RESET shares: a busy core runs its ROUND step and drops the command, an
idle one does what the command says (43_commands.md R130, R136). -/
def unlessBusy (idle : State → State) (s : State) : State := if s.busy_r then roundEdge s else idle s

end Sys2Proof.Machine
end

