-- ==== Sys2Proof/Machine/Commands.lean ====
section
/-! DEFINITION. The meanings of the four commands, each on the state at the edge that samples it. Fields a command ignores
are arguments that it does not read (30_encoding.md R65). -/

namespace Sys2Proof.Machine

/-- RESET, in every state (70_reset_and_hazards.md R170; priority 43_commands.md R130). -/
def execRst (_sta _dir : BitVec 1) (_key : Key) (_dat : Block) (s : State) : Host.Outcome State Fault Refusal :=
  .next (resetRegs s)

/-- ENCRYPT (43_commands.md R131; while busy R136). -/
def execEnc (key : Key) (dat : Block) (s : State) : Host.Outcome State Fault Refusal :=
  .next (unlessBusy (accept .encrypt key dat) s)

/-- DECRYPT (43_commands.md R132; while busy R136). -/
def execDec (key : Key) (dat : Block) (s : State) : Host.Outcome State Fault Refusal :=
  .next (unlessBusy (accept .decrypt key dat) s)

/-- IDLE (43_commands.md R133; while busy R134). -/
def execNop (_dir : BitVec 1) (_key : Key) (_dat : Block) (s : State) : Host.Outcome State Fault Refusal :=
  .next (unlessBusy idleEdge s)

end Sys2Proof.Machine
end

