-- ==== Sys2Proof/Machine/Dispatch.lean ====
section
/-! DEFINITION. One arm per command. -/

namespace Sys2Proof.Machine

def exec (i : Instr) (s : State) : Host.Outcome State Fault Refusal :=
  match i with
  | .rst sta dir key dat => Sys2Proof.Machine.execRst sta dir key dat s
  | .enc key dat => Sys2Proof.Machine.execEnc key dat s
  | .dec key dat => Sys2Proof.Machine.execDec key dat s
  | .nop dir key dat => Sys2Proof.Machine.execNop dir key dat s

end Sys2Proof.Machine
end

