-- ==== Sys2Proof/Machine/Ports.lean ====
section
/-! DEFINITION. The input ports: which IN vector an edge samples (10_state.md R20, R21, 30_encoding.md R60), what the host
may do (70_reset_and_hazards.md R181), and the loss of power (60_exceptions.md R159). -/

namespace Sys2Proof.Machine

/-- The IN vector that will be sampled `j` edges after the coming one: the host's own list, and beyond its end a free
value, one for each edge (10_state.md R20; log 1, log 2). -/
def State.inputAt (s : State) (j : Nat) : InVec := s.inputs.getD j (Config.hostInput (s.draw + j))

/-- The IN vector the coming edge samples. -/
def State.sampled (s : State) : InVec := s.inputAt 0

/-- The state with that vector used up; no register changes. -/
def State.afterSample (s : State) : State := { s with inputs := s.inputs.tail, draw := s.draw + 1 }

/-- The host decides what it will drive at the coming edges: any values (70_reset_and_hazards.md R181). -/
def State.drive (s : State) (vs : List InVec) : State := { s with inputs := vs }

/-- The number an IN vector is given by, laid on the ports: bit 0 the least significant, bits above `nbits` 0. -/
def vectorOfTableWord (nbits w : Nat) : InVec := BitVec.ofNat 131 (w % 2 ^ nbits)

/-- The state when power comes back, and when it first comes: every register at a free value of its own
(70_reset_and_hazards.md R171, 60_exceptions.md R159; log 3). This is no step: the block steps at edges alone (R13). -/
def State.powerOn (s : State) : State where
  busy_r := Config.powerOnBusy s.draw
  done_r := Config.powerOnDone s.draw
  dir := if Config.powerOnDir s.draw then .decrypt else .encrypt
  rnd := Config.powerOnRnd s.draw
  L := Config.powerOnL s.draw
  R := Config.powerOnR s.draw
  C := Config.powerOnC s.draw
  D := Config.powerOnD s.draw
  dout := Config.powerOnDout s.draw
  inputs := s.inputs
  draw := s.draw + 1

end Sys2Proof.Machine
end

