-- ==== Sys2Proof/Machine/Step.lean ====
section
/-! DEFINITION. One step is one rising edge of `clk` (00_scope.md R13). -/

namespace Sys2Proof.Machine

/-- One edge: sample IN, decode it, run the command on the registers (43_commands.md R130). -/
def step (s : State) : Host.Outcome State Fault Refusal := exec (decode s.sampled) s.afterSample

/-- `s` with the host driving the given vector at the coming edge, in place of what it would have driven there: the block
fetches nothing (20_memory.md R48, R51), it samples its ports (log 1). -/
def State.withFetchWord (s : State) (nbits w : Nat) : State :=
  s.drive (vectorOfTableWord nbits w :: s.inputs.tail)

end Sys2Proof.Machine
end

