-- ==== Sys2Proof/Machine/Notation.lean ====
section
/-! DEFINITION. The assembler notation of 30_encoding.md R67 and its pseudo-instructions R68: command sequences, one command
an edge. -/

namespace Sys2Proof.Machine

/-- The line `RST` (30_encoding.md R67). -/
def lineRST : Instr := .rst 0#1 0#1 0#64 0#64
/-- The line `ENC key, data` (30_encoding.md R67). -/
def lineENC (key : Key) (data : Block) : Instr := .enc key data
/-- The line `DEC key, data` (30_encoding.md R67). -/
def lineDEC (key : Key) (data : Block) : Instr := .dec key data
/-- The line `NOP` (30_encoding.md R67). -/
def lineNOP : Instr := .nop 0#1 0#64 0#64

/-- The pseudo-instructions (30_encoding.md R68). -/
inductive Pseudo where
  | nopTimes (n : Nat)
  | wait16
  | encw (key : Key) (data : Block)
  | decw (key : Key) (data : Block)
  deriving DecidableEq, Repr

/-- The edges a pseudo-instruction expands to (30_encoding.md R68). -/
def Pseudo.expand : Pseudo → List Instr
  | .nopTimes n => List.replicate n lineNOP
  | .wait16 => List.replicate 16 lineNOP
  | .encw key data => lineENC key data :: List.replicate 16 lineNOP
  | .decw key data => lineDEC key data :: List.replicate 16 lineNOP

end Sys2Proof.Machine
end

