-- ==== Sys2Proof/Machine/System.lean ====
section
/-! DEFINITION. Several instances of the block (60_exceptions.md R157): each has its own registers and ports, `clk` among them. -/

namespace Sys2Proof.Machine

/-- A rising edge at the clock of instance `i` of a system; where there is no such instance nothing happens (log 7). -/
def stepInstance (i : Nat) (cores : List State) : Host.Outcome (List State) Fault Refusal :=
  match cores[i]? with
  | none => .next cores
  | some s =>
    match step s with
    | .next t => .next (cores.set i t)
    | .fault r => .fault r
    | .refused r => .refused r

end Sys2Proof.Machine
end

