-- ==== Sys2Proof/Safety.lean ====
section
/-! DEFINITION. The terms claims use: runs of edges, an operation in progress (10_state.md R33), its result, and the states
a reset core can reach, each with the commands that led there. -/

namespace Sys2Proof.Machine

/-- `n` edges. -/
def steps : Nat → State → Host.Outcome State Fault Refusal
  | 0, s => .next s
  | n + 1, s =>
    match step s with
    | .next t => steps n t
    | .fault r => .fault r
    | .refused r => .refused r

/-- The host holds RST = 0 at the coming edges `first` to `last`, the coming edge being number 0. -/
def noReset (s : State) (first last : Nat) : Prop :=
  ∀ j, first ≤ j → j ≤ last → fieldRST (s.inputAt j) = 0#1

/-- The command that requests an operation: ENCRYPT or DECRYPT (43_commands.md R131, R132). -/
def requestOf (d : Direction) (k : Key) (b : Block) : Instr :=
  match d with
  | .encrypt => .enc k b
  | .decrypt => .dec k b

/-- The result the host gets: DES_enc(k, b) or DES_dec(k, b) (43_commands.md R137). -/
def resultOf (d : Direction) (k : Key) (b : Block) : Block :=
  match d with
  | .encrypt => DES_enc k b
  | .decrypt => DES_dec k b

/-- The subkeys in the order the operation uses them (41_key_schedule.md R103). -/
def subkeysOf (d : Direction) (k : Key) : List Subkey :=
  match d with
  | .encrypt => KS k
  | .decrypt => (KS k).reverse

/-- L_n and R_n: the Feistel recurrence with the operation's subkeys (10_state.md R33, 42_round_function.md R117). -/
def halvesAfter (d : Direction) (k : Key) (b : Block) (n : Nat) : Half × Half :=
  ((subkeysOf d k).take n).foldl feistelRound (splitBlock b)

/-- The contents of C after n rounds of an operation (10_state.md R33). -/
def keyHalfC (d : Direction) (k : Key) (n : Nat) : KeyHalf :=
  match d with
  | .encrypt => scheduleC k n
  | .decrypt => if n = 0 then scheduleC k 16 else scheduleC k (17 - n)

/-- The contents of D after n rounds of an operation (10_state.md R33). -/
def keyHalfD (d : Direction) (k : Key) (n : Nat) : KeyHalf :=
  match d with
  | .encrypt => scheduleD k n
  | .decrypt => if n = 0 then scheduleD k 16 else scheduleD k (17 - n)

/-- The operation (d, k, b) is in progress and n of its rounds are done (10_state.md R33). -/
structure InOperation (d : Direction) (k : Key) (b : Block) (n : Nat) (s : State) : Prop where
  busy : s.busy_r = true
  done : s.done_r = false
  dir : s.dir = d
  rnd : s.rnd.toNat = n
  halves : (s.L, s.R) = halvesAfter d k b n
  keyC : s.C = keyHalfC d k n
  keyD : s.D = keyHalfD d k n

/-- An operation that was accepted and has not ended: the direction, key and block of the command that began it, and how
many of its rounds are done (43_commands.md R138). -/
structure Operation where
  dir : Direction
  key : Key
  block : Block
  rounds : Nat
  deriving DecidableEq, Repr

/-- What the commands sampled since the last RESET edge come to. It is told from the commands alone, and reads no register. -/
structure History where
  /-- The operation in progress, if there is one (43_commands.md R138). -/
  current : Option Operation
  /-- The result of the last operation that completed, 0 before the first (10_state.md R30, 70_reset_and_hazards.md R175). -/
  result : Block
  deriving DecidableEq, Repr

/-- Right after a RESET edge: no operation and no result (70_reset_and_hazards.md R173, R178). -/
def History.cleared : History := ⟨none, 0#64⟩

/-- One more command sampled. RESET clears. With no operation in progress, ENCRYPT and DECRYPT begin one and IDLE does
nothing; with one in progress the command is dropped, and the operation's next round, its 16th the last, is done
(43_commands.md R130, R136, R138). -/
def History.after (h : History) (i : Instr) : History :=
  match h.current, i with
  | _, .rst _ _ _ _ => History.cleared
  | none, .enc k b => { h with current := some ⟨.encrypt, k, b, 0⟩ }
  | none, .dec k b => { h with current := some ⟨.decrypt, k, b, 0⟩ }
  | none, .nop _ _ _ => h
  | some o, .enc _ _ | some o, .dec _ _ | some o, .nop _ _ _ =>
    if o.rounds + 1 = Config.rounds then ⟨none, resultOf o.dir o.key o.block⟩
    else { h with current := some { o with rounds := o.rounds + 1 } }

/-- The registers are as the history says: inside exactly the operation that the accepted command began (10_state.md R33), or
idle with `rnd` = 0 (R25); and `dout` is the last result (R30). -/
structure Consistent (h : History) (s : State) : Prop where
  running : ∀ o, h.current = some o → InOperation o.dir o.key o.block o.rounds s
  idle : h.current = none → s.busy_r = false ∧ s.rnd = 0#4
  result : s.dout = h.result

/-- The states a core that has been reset can be in, whatever the host drives, each with the history of the commands that
led there: "reachable from reset" (10_state.md R25, 70_reset_and_hazards.md R172). -/
inductive Reachable : History → State → Prop where
  | afterReset (s : State) : Reachable History.cleared (resetRegs s)
  | edge (h : History) (s t : State) : Reachable h s → step s = .next t → Reachable (h.after (decode (s.inputAt 0))) t
  | drive (h : History) (s : State) (vs : List InVec) : Reachable h s → Reachable h (s.drive vs)

/-- Two keys that agree outside the parity positions (20_memory.md R43). -/
def sameButParity (k k' : Key) : Prop := k &&& ~~~parityMask = k' &&& ~~~parityMask

end Sys2Proof.Machine
end

