-- ==== Sys2Proof/Certificates/Slice0/Obligations.lean ====
section
/-! DEFINITION. The statements for the provers. Each docstring names the rule of spec/ its statement formalises. There is no
memory (20_memory.md R40), so a frame speaks of registers and of the model's two host fields `inputs` and `draw`. -/

open Sys2Proof Sys2Proof.Machine

/-! ## Encoding and decoding -/

/-- 00_scope.md R13, 30_encoding.md R60: one step samples the vector the host drives at this edge, decodes it, and runs the
command; sampling changes no register. The model's choice: that the vectors stand in `inputs` and that `withFetchWord` puts the
vector of a table word at the coming edge (log 1), and that vector as a number (log 5). -/
def Obligations.StepRunsTheSampledCommand : Prop :=
  ∀ s : State,
    step s = exec (decode (s.inputAt 0)) s.afterSample ∧
    s.afterSample = { s with inputs := s.inputs.tail, draw := s.draw + 1 } ∧
    (∀ v vs, s.inputs = v :: vs → s.inputAt 0 = v) ∧
    (∀ nbits w i, decodeTableWord nbits w = some i →
      step (s.withFetchWord nbits w) = exec i (s.withFetchWord nbits w).afterSample)

/-- 30_encoding.md R60, R62, R64: no bit of IN is dropped or moved, for every command and every vector; and the byte image of
log 5 carries the same. -/
def Obligations.DecodeAndEncodeAgree : Prop :=
  (∀ i : Instr, decode (encode i) = i) ∧
  (∀ v : InVec, encode (decode v) = v) ∧
  (∀ i : Instr, decodeTableWord 131 (encode i).toNat = some i) ∧
  (∀ i : Instr, decodeBytes (encodeBytes i) = .ok i)

/-- 30_encoding.md R62: the four rows are disjoint and cover every vector, and the row a vector selects is the one its
command is named by; with the CTL table itself. -/
def Obligations.EveryVectorSelectsOneRow : Prop :=
  ∀ v : InVec,
    (commandRows.filter (·.selectedBy v)).map (·.mnemonic) = [(decode v).mnemonic] ∧
    ((fieldCTL v) &&& 0b100#3 = 0b100#3 → (decode v).mnemonic = "RST") ∧
    (fieldCTL v = 0b010#3 → (decode v).mnemonic = "ENC") ∧
    (fieldCTL v = 0b011#3 → (decode v).mnemonic = "DEC") ∧
    ((fieldCTL v) &&& 0b110#3 = 0b000#3 → (decode v).mnemonic = "NOP")

/-- 30_encoding.md R60, R67: vectors written out in hex, c then KEY then DAT, decode to the command they stand for. -/
def Obligations.WrittenVectorsDecode : Prop :=
  decode 0x400000000000000000000000000000000#131 = .rst 0#1 0#1 0#64 0#64 ∧
  decode 0x6FFFFFFFFFFFFFFFFFFFFFFFFFFFFFFFF#131 = .rst 1#1 0#1 0xFFFFFFFFFFFFFFFF#64 0xFFFFFFFFFFFFFFFF#64 ∧
  decode 0x2133457799BBCDFF10123456789ABCDEF#131 = .enc 0x133457799BBCDFF1#64 0x0123456789ABCDEF#64 ∧
  decode 0x3133457799BBCDFF185E813540F0AB405#131 = .dec 0x133457799BBCDFF1#64 0x85E813540F0AB405#64 ∧
  decode 0x000000000000000000000000000000000#131 = .nop 0#1 0#64 0#64 ∧
  decode 0x1FFFFFFFFFFFFFFFFFFFFFFFFFFFFFFFF#131 = .nop 1#1 0xFFFFFFFFFFFFFFFF#64 0xFFFFFFFFFFFFFFFF#64

/-- 30_encoding.md R60, R66 and the model's choice of log 5: a number is rejected exactly when it has a bit above bit 130, a
byte list exactly when it is not 17 bytes or its first byte has one of the five bits above bit 130. -/
def Obligations.OnlyImagesOutsideTheVectorAreRejected : Prop :=
  (∀ w : Nat, decodeNumber w = .error .bitAboveVector ↔ 2 ^ 131 ≤ w) ∧
  (∀ v : InVec, decodeNumber v.toNat = .ok (decode v)) ∧
  (∀ bs : List Byte, decodeBytes bs = .error .wrongLength ↔ bs.length ≠ 17) ∧
  (∀ b : Byte, ∀ bs : List Byte, bs.length = 16 →
    (decodeBytes (b :: bs) = .error .bitAboveVector ↔ 8 ≤ b.toNat))

/-- 30_encoding.md R65: the fields a command ignores, and while busy every field but RST, change nothing. -/
def Obligations.IgnoredFieldsHaveNoEffect : Prop :=
  ∀ (s : State) (v v' : InVec),
    (fieldRST v = 1#1 → fieldRST v' = 1#1 → exec (decode v) s = exec (decode v') s) ∧
    (fieldRST v = 0#1 → fieldRST v' = 0#1 → fieldSTA v = 0#1 → fieldSTA v' = 0#1 →
      exec (decode v) s = exec (decode v') s) ∧
    (s.busy_r = true → fieldRST v = fieldRST v' → exec (decode v) s = exec (decode v') s)

/-! ## The commands, one edge at a time -/

/-- 43_commands.md R130: the order of the tests; the step always has a next state. -/
def Obligations.EdgeDispatchOrder : Prop :=
  ∀ s : State,
    (fieldRST (s.inputAt 0) = 1#1 → step s = .next (resetRegs s.afterSample)) ∧
    (fieldRST (s.inputAt 0) = 0#1 → s.busy_r = true → step s = .next (roundEdge s.afterSample)) ∧
    (fieldRST (s.inputAt 0) = 0#1 → s.busy_r = false → fieldSTA (s.inputAt 0) = 1#1 → fieldDIR (s.inputAt 0) = 0#1 →
      step s = .next (accept .encrypt (fieldKEY (s.inputAt 0)) (fieldDAT (s.inputAt 0)) s.afterSample)) ∧
    (fieldRST (s.inputAt 0) = 0#1 → s.busy_r = false → fieldSTA (s.inputAt 0) = 1#1 → fieldDIR (s.inputAt 0) = 1#1 →
      step s = .next (accept .decrypt (fieldKEY (s.inputAt 0)) (fieldDAT (s.inputAt 0)) s.afterSample)) ∧
    (fieldRST (s.inputAt 0) = 0#1 → s.busy_r = false → fieldSTA (s.inputAt 0) = 0#1 →
      step s = .next (idleEdge s.afterSample)) ∧
    ∃ t, step s = .next t

/-- 43_commands.md R131: the accept of ENCRYPT on an idle core completes for every key and block, with exactly these
writes; on a busy core the edge is the ROUND step; `data_out` keeps the previous result until the operation completes; and
the rule's example. -/
def Obligations.EncryptAcceptLoadsOperands : Prop :=
  (∀ (k : Key) (b : Block) (s : State), s.busy_r = false →
    exec (.enc k b) s = .next { s with
      L := (IP b).extractLsb' 32 32, R := (IP b).extractLsb' 0 32,
      C := (PC1 k).extractLsb' 28 28, D := (PC1 k).extractLsb' 0 28,
      dir := .encrypt, rnd := 0#4, busy_r := true, done_r := false }) ∧
  (∀ v : InVec, fieldCTL v = 0b010#3 → decode v = .enc (fieldKEY v) (fieldDAT v)) ∧
  (∀ (k : Key) (b : Block) (s : State), s.busy_r = true → exec (.enc k b) s = .next (roundEdge s)) ∧
  (∀ s : State, s.busy_r = false → ∃ t, exec (.enc 0x133457799BBCDFF1#64 0x0123456789ABCDEF#64) s = .next t ∧
    t.L = 0xCC00CCFF#32 ∧ t.R = 0xF0AAF0AA#32 ∧ t.C = 0xF0CCAAF#28 ∧ t.D = 0x556678F#28 ∧ t.busy_r = true) ∧
  (∀ (k : Key) (b : Block) (s : State) (j : Nat), s.busy_r = false → decode (s.inputAt 0) = .enc k b → j ≤ 15 →
    noReset s 1 j → ∃ u, steps (j + 1) s = .next u ∧ u.data_out = s.data_out)

/-- 43_commands.md R132: as R131 with `dir` 1; with b = DES_enc(k, p) the accept finds R_16 || L_16 of that encryption; the
rule's example; and any block, encrypted before or not, gives DES_dec(k, b). -/
def Obligations.DecryptAcceptLoadsOperands : Prop :=
  (∀ (k : Key) (b : Block) (s : State), s.busy_r = false →
    exec (.dec k b) s = .next { s with
      L := (IP b).extractLsb' 32 32, R := (IP b).extractLsb' 0 32,
      C := (PC1 k).extractLsb' 28 28, D := (PC1 k).extractLsb' 0 28,
      dir := .decrypt, rnd := 0#4, busy_r := true, done_r := false }) ∧
  (∀ v : InVec, fieldCTL v = 0b011#3 → decode v = .dec (fieldKEY v) (fieldDAT v)) ∧
  (∀ (k : Key) (b : Block) (s : State), s.busy_r = true → exec (.dec k b) s = .next (roundEdge s)) ∧
  (∀ (k : Key) (p : Block),
    IP (DES_enc k p) = (halvesAfter .encrypt k p 16).2 ++ (halvesAfter .encrypt k p 16).1) ∧
  (∀ s : State, s.busy_r = false → ∃ t, exec (.dec 0x133457799BBCDFF1#64 0x85E813540F0AB405#64) s = .next t ∧
    t.L = 0x0A4CD995#32 ∧ t.R = 0x43423234#32 ∧ t.dir = .decrypt ∧ t.busy_r = true) ∧
  (∀ (k : Key) (b : Block) (s : State) (j : Nat), s.busy_r = false → decode (s.inputAt 0) = .dec k b → j ≤ 15 →
    noReset s 1 j → ∃ u, steps (j + 1) s = .next u ∧ u.data_out = s.data_out) ∧
  (∀ (k : Key) (b : Block) (s : State), s.busy_r = false → decode (s.inputAt 0) = .dec k b → noReset s 1 16 →
    ∃ u, steps 17 s = .next u ∧ u.data_out = DES_dec k b)

/-- 43_commands.md R133: IDLE on an idle core completes and clears `done` alone; every other register, and both host fields,
are kept; on a busy core the edge is the ROUND step; an idle core holds `dout` for any number of IDLE edges; the core is idle
after reset. -/
def Obligations.IdleClearsDoneAlone : Prop :=
  (∀ (d : BitVec 1) (k : Key) (b : Block) (s : State), s.busy_r = false →
    exec (.nop d k b) s = .next { s with done_r := false }) ∧
  (∀ v : InVec, fieldRST v = 0#1 → fieldSTA v = 0#1 → decode v = .nop (fieldDIR v) (fieldKEY v) (fieldDAT v)) ∧
  (∀ (d : BitVec 1) (k : Key) (b : Block) (s : State), s.busy_r = true → exec (.nop d k b) s = .next (roundEdge s)) ∧
  (∀ (n : Nat) (s : State), s.busy_r = false →
    (∀ j, j < n → fieldRST (s.inputAt j) = 0#1 ∧ fieldSTA (s.inputAt j) = 0#1) →
    ∃ t, steps n s = .next t ∧ t.busy_r = false ∧ t.dout = s.dout) ∧
  (∀ s : State, (resetRegs s).busy_r = false)

/-- 43_commands.md R134: every command but RESET, on a busy core, runs one round with exactly these writes; and the rule's
example. -/
def Obligations.RoundEdgeRunsOneRound : Prop :=
  (∀ (i : Instr) (s : State), (∀ a d k b, i ≠ .rst a d k b) → s.busy_r = true →
    ∃ t, exec i s = .next t ∧
      (s.dir = .encrypt → t.C = rotl28 s.C (SHIFT (s.rnd.toNat + 1)) ∧ t.D = rotl28 s.D (SHIFT (s.rnd.toNat + 1))) ∧
      (s.dir = .decrypt → t.C = rotr28 s.C (RSHIFT (s.rnd.toNat + 1)) ∧ t.D = rotr28 s.D (RSHIFT (s.rnd.toNat + 1))) ∧
      t.L = s.R ∧ t.R = s.L ^^^ f s.R (PC2 (t.C ++ t.D)) ∧
      t.rnd.toNat = (s.rnd.toNat + 1) % 16 ∧ t.dir = s.dir ∧
      (s.rnd.toNat ≠ 15 → t.done_r = false ∧ t.busy_r = true ∧ t.dout = s.dout) ∧
      (s.rnd.toNat = 15 → t.done_r = true ∧ t.busy_r = false ∧ t.dout = FP (t.R ++ t.L))) ∧
  (∀ (i : Instr) (s : State), (∀ a d k b, i ≠ .rst a d k b) → s.busy_r = true → s.dir = .encrypt → s.rnd = 0#4 →
    s.L = 0xCC00CCFF#32 → s.R = 0xF0AAF0AA#32 → s.C = 0xF0CCAAF#28 → s.D = 0x556678F#28 →
    ∃ t, exec i s = .next t ∧ t.L = 0xF0AAF0AA#32 ∧ t.R = 0xEF4A6544#32 ∧ t.C = 0xE19955F#28 ∧ t.D = 0xAACCF1E#28 ∧
      t.rnd = 1#4)

/-- 43_commands.md R135: at `rnd` = 15 the edge also writes `dout`, with the halves in swapped order, and the flags; no edge
but this and RESET writes `dout`; no ROUND follows, and the next edge clears `done`; and the rule's example. -/
def Obligations.CompletionWritesTheResult : Prop :=
  (∀ (i : Instr) (s : State), (∀ a d k b, i ≠ .rst a d k b) → s.busy_r = true → s.rnd = 15#4 →
    ∃ t, exec i s = .next t ∧ t.L = s.R ∧ t.R = s.L ^^^ f s.R (PC2 (t.C ++ t.D)) ∧
      t.dout = FP ((s.L ^^^ f s.R (PC2 (t.C ++ t.D))) ++ s.R) ∧
      t.busy_r = false ∧ t.done_r = true ∧ t.rnd = 0#4 ∧
      (∀ j u, exec j t = .next u → u.done_r = false)) ∧
  (∀ (i : Instr) (s t : State), exec i s = .next t → t.dout ≠ s.dout →
    (∃ a d k b, i = .rst a d k b) ∨ (s.busy_r = true ∧ s.rnd = 15#4)) ∧
  (∀ (i : Instr) (s : State), (∀ a d k b, i ≠ .rst a d k b) → s.busy_r = true → s.dir = .encrypt → s.rnd = 15#4 →
    s.L = 0xC28C960D#32 → s.R = 0x43423234#32 → s.C = 0xF866557#28 → s.D = 0xAAB33C7#28 →
    ∃ t, exec i s = .next t ∧ t.L = 0x43423234#32 ∧ t.R = 0x0A4CD995#32 ∧ t.dout = 0x85E813540F0AB405#64 ∧
      t.done_r = true ∧ t.busy_r = false)

/-- 70_reset_and_hazards.md R170: RESET completes in every state, whatever the other fields hold, and leaves every register
0; several RESET edges give the state of one; what the ports show between edges has no effect; the reset values are those of
`State.reset`. -/
def Obligations.ResetClearsEveryRegister : Prop :=
  (∀ (a d : BitVec 1) (k : Key) (b : Block) (s : State),
    exec (.rst a d k b) s = .next
      { busy_r := false, done_r := false, dir := .encrypt, rnd := 0#4, L := 0#32, R := 0#32, C := 0#28, D := 0#28,
        dout := 0#64, inputs := s.inputs, draw := s.draw }) ∧
  (∀ v : InVec, fieldRST v = 1#1 → ∃ a d k b, decode v = .rst a d k b) ∧
  (∀ (i i' : Instr) (s t u : State), i.mnemonic = "RST" → i'.mnemonic = "RST" → exec i s = .next t →
    exec i' t = .next u → u = t) ∧
  (∀ s : State, fieldRST (s.inputAt 0) = 1#1 →
    step s = .next { State.reset with inputs := s.inputs.tail, draw := s.draw + 1 }) ∧
  (∀ (s : State) (v : InVec) (vs vs' : List InVec), step ((s.drive (v :: vs)).drive vs') = step (s.drive vs'))

/-- Frame of the commands on an idle core (43_commands.md R131-R133, 70_reset_and_hazards.md R170): an accept leaves `dout`;
IDLE leaves everything but `done_r`; no command touches the host fields. -/
def Obligations.IdleCoreCommandFrame : Prop :=
  ∀ (s t : State), s.busy_r = false →
    (∀ k b, exec (.enc k b) s = .next t ∨ exec (.dec k b) s = .next t →
      t.dout = s.dout ∧ t.inputs = s.inputs ∧ t.draw = s.draw) ∧
    (∀ d k b, exec (.nop d k b) s = .next t →
      t.busy_r = s.busy_r ∧ t.dir = s.dir ∧ t.rnd = s.rnd ∧ t.L = s.L ∧ t.R = s.R ∧ t.C = s.C ∧ t.D = s.D ∧
      t.dout = s.dout ∧ t.inputs = s.inputs ∧ t.draw = s.draw) ∧
    (∀ a d k b, exec (.rst a d k b) s = .next t → t.inputs = s.inputs ∧ t.draw = s.draw)

/-- Frame of the commands on a busy core (43_commands.md R134-R136): ENCRYPT, DECRYPT and IDLE leave `dir` and the host
fields, and before round 16 also `busy_r` and `dout`. -/
def Obligations.BusyCoreCommandFrame : Prop :=
  ∀ (i : Instr) (s t : State), (∀ a d k b, i ≠ .rst a d k b) → s.busy_r = true → exec i s = .next t →
    t.dir = s.dir ∧ t.inputs = s.inputs ∧ t.draw = s.draw ∧
    (s.rnd ≠ 15#4 → t.busy_r = s.busy_r ∧ t.dout = s.dout)

/-- 43_commands.md R136: on a busy core every vector with RST = 0 runs the ROUND step, as a NOP would; only RESET aborts an
operation before its round 16. -/
def Obligations.CommandWhileBusyIsDropped : Prop :=
  ∀ (s : State) (v : InVec), s.busy_r = true →
    (fieldRST v = 0#1 → exec (decode v) s = .next (roundEdge s) ∧ exec (decode v) s = exec lineNOP s) ∧
    (∀ t, exec (decode v) s = .next t → t.busy_r = false → fieldRST v = 1#1 ∨ s.rnd = 15#4)

/-- 60_exceptions.md R153: RESET wins over everything and cancels a completion; a round wins over a command, so a `start` at
the completion edge is dropped and the next edge may accept. -/
def Obligations.PriorityAtOneEdge : Prop :=
  (∀ s : State, fieldRST (s.inputAt 0) = 1#1 → ∃ t, step s = .next t ∧ t.dout = 0#64 ∧ t.done_r = false ∧ t.busy_r = false) ∧
  (∀ s : State, fieldRST (s.inputAt 0) = 0#1 → s.busy_r = true → step s = .next (roundEdge s.afterSample)) ∧
  (∀ (s : State) (d : Direction) (k : Key) (b : Block), fieldRST (s.inputAt 0) = 0#1 → s.busy_r = true → s.rnd = 15#4 →
    decode (s.inputAt 1) = requestOf d k b →
    ∃ t u, step s = .next t ∧ t.busy_r = false ∧ t.done_r = true ∧ step t = .next u ∧ InOperation d k b 0 u) ∧
  (∀ (s : State) (d : Direction) (k : Key) (b : Block), s.busy_r = false → decode (s.inputAt 0) = requestOf d k b →
    ∃ t, step s = .next t ∧ InOperation d k b 0 t) ∧
  (∀ s : State, s.busy_r = false → fieldRST (s.inputAt 0) = 0#1 → fieldSTA (s.inputAt 0) = 0#1 →
    step s = .next (idleEdge s.afterSample))

/-! ## Registers, flags and ports -/

/-- 10_state.md R22, 30_encoding.md R61: the outputs are registers, at their places in OUT, and do not depend on what the host
drives. -/
def Obligations.OutputsAreRegisters : Prop :=
  ∀ s : State,
    s.busy = s.busy_r ∧ s.done = s.done_r ∧ s.data_out = s.dout ∧
    s.out.getLsbD 65 = s.busy_r ∧ s.out.getLsbD 64 = s.done_r ∧ s.out.extractLsb' 0 64 = s.dout ∧
    (∀ vs, (s.drive vs).out = s.out)

/-- 10_state.md R25: what each edge makes of `rnd`; from the accept edge on, `rnd` is the number of rounds that have run, and the
completion edge wraps it to 0; at every point reachable from reset it counts the rounds of the operation that the accepted
command began, and is 0 when there is none; no output shows it. -/
def Obligations.RoundCounterRule : Prop :=
  (∀ s t : State, step s = .next t →
    (fieldRST (s.inputAt 0) = 1#1 → t.rnd = 0#4) ∧
    (fieldRST (s.inputAt 0) = 0#1 → s.busy_r = true → t.rnd.toNat = (s.rnd.toNat + 1) % 16) ∧
    (fieldRST (s.inputAt 0) = 0#1 → s.busy_r = false → fieldSTA (s.inputAt 0) = 1#1 → t.rnd = 0#4) ∧
    (fieldRST (s.inputAt 0) = 0#1 → s.busy_r = false → fieldSTA (s.inputAt 0) = 0#1 → t.rnd = s.rnd)) ∧
  (∀ (d : Direction) (k : Key) (b : Block) (s : State), s.busy_r = false → decode (s.inputAt 0) = requestOf d k b →
    (∀ n, n ≤ 15 → noReset s 1 n → ∃ u, steps (n + 1) s = .next u ∧ u.busy_r = true ∧ u.rnd.toNat = n) ∧
    (noReset s 1 16 → ∃ u, steps 17 s = .next u ∧ u.busy_r = false ∧ u.rnd = 0#4)) ∧
  (∀ (h : History) (s : State), Reachable h s →
    (∀ o, h.current = some o → s.busy_r = true ∧ s.rnd.toNat = o.rounds) ∧
    (h.current = none → s.busy_r = false ∧ s.rnd = 0#4)) ∧
  (∀ (s : State) (x : BitVec 4), ({ s with rnd := x } : State).out = s.out)

/-- 10_state.md R26: an accept sets `busy_r`, completion and RESET clear it, no other edge writes it; while it is 1 the other
inputs are ignored. -/
def Obligations.BusyFlagRule : Prop :=
  (∀ s t : State, step s = .next t →
    (fieldRST (s.inputAt 0) = 1#1 → t.busy_r = false) ∧
    (fieldRST (s.inputAt 0) = 0#1 → s.busy_r = false → (t.busy_r = true ↔ fieldSTA (s.inputAt 0) = 1#1)) ∧
    (fieldRST (s.inputAt 0) = 0#1 → s.busy_r = true → (t.busy_r = false ↔ s.rnd = 15#4))) ∧
  (∀ (s : State) (v v' : InVec) (vs : List InVec), s.busy_r = true → fieldRST v = fieldRST v' →
    step (s.drive (v :: vs)) = step (s.drive (v' :: vs)))

/-- 10_state.md R27: `done_r` is 1 after a completion edge and after no other; it is never 1 with `busy_r`, and never for two
edges in a row. -/
def Obligations.DonePulseRule : Prop :=
  ∀ s t : State, step s = .next t →
    (t.done_r = true ↔ fieldRST (s.inputAt 0) = 0#1 ∧ s.busy_r = true ∧ s.rnd = 15#4) ∧
    ¬ (t.done_r = true ∧ t.busy_r = true) ∧
    (t.done_r = true → ∀ u, step t = .next u → u.done_r = false)

/-- 10_state.md R28 with the RESET of 70_reset_and_hazards.md R170: `dir` latches the `decrypt` port at an accept, is cleared
by RESET, and is written by no other edge. -/
def Obligations.DirectionIsLatchedAtAccept : Prop :=
  ∀ s t : State, step s = .next t →
    (fieldRST (s.inputAt 0) = 1#1 → t.dir = .encrypt) ∧
    (fieldRST (s.inputAt 0) = 0#1 → s.busy_r = false → fieldSTA (s.inputAt 0) = 1#1 →
      t.dir.bit = fieldDIR (s.inputAt 0)) ∧
    (fieldRST (s.inputAt 0) = 0#1 → (s.busy_r = true ∨ fieldSTA (s.inputAt 0) = 0#1) → t.dir = s.dir)

/-- 10_state.md R30: `dout` is on `data_out`; it keeps its value along any run whose edges hold no RESET and no completion,
however long, and so reads 0 from RESET to the first completion. -/
def Obligations.OutputRegisterHoldsBetweenCompletions : Prop :=
  (∀ s t : State, step s = .next t → fieldRST (s.inputAt 0) = 1#1 → t.data_out = 0#64) ∧
  (∀ s t : State, step s = .next t → fieldRST (s.inputAt 0) = 0#1 → s.busy_r = true → s.rnd = 15#4 →
    t.data_out = FP (t.R ++ t.L)) ∧
  (∀ (n : Nat) (s : State),
    (∀ j u, j < n → steps j s = .next u → fieldRST (u.inputAt 0) = 0#1 ∧ ¬ (u.busy_r = true ∧ u.rnd = 15#4)) →
    ∃ t, steps n s = .next t ∧ t.data_out = s.data_out) ∧
  (∀ (n : Nat) (s : State),
    (∀ j u, j < n → steps j (resetRegs s) = .next u →
      fieldRST (u.inputAt 0) = 0#1 ∧ ¬ (u.busy_r = true ∧ u.rnd = 15#4)) →
    ∃ t, steps n (resetRegs s) = .next t ∧ t.data_out = 0#64)

/-- 10_state.md R32: after completion L, R, C, D and `dir` keep what the last round wrote and `rnd` is 0; the next accept
overwrites every one of them, so that nothing of them is left. -/
def Obligations.LeftoverRegistersAreOverwritten : Prop :=
  (∀ (d : Direction) (k : Key) (b : Block) (i : Instr) (s : State), (∀ a d' k' b', i ≠ .rst a d' k' b') →
    InOperation d k b 15 s →
    ∃ t, exec i s = .next t ∧ (t.L, t.R) = halvesAfter d k b 16 ∧ t.C = keyHalfC d k 16 ∧ t.D = keyHalfD d k 16 ∧
      t.dir = d ∧ t.rnd = 0#4) ∧
  (∀ (d : Direction) (k : Key) (b : Block) (s s' : State), s.busy_r = false → s'.busy_r = false → s.dout = s'.dout →
    s.inputs = s'.inputs → s.draw = s'.draw → exec (requestOf d k b) s = exec (requestOf d k b) s')

/-- 10_state.md R24, R32: the host cannot observe the leftover registers: two idle cores that show the same outputs and see
the same inputs show the same outputs for ever, whatever L, R, C, D, `dir` and `rnd` hold. -/
def Obligations.LeftoverRegistersAreUnobservable : Prop :=
  ∀ (n : Nat) (s s' t t' : State), s.busy_r = false → s'.busy_r = false → s.out = s'.out → s.inputs = s'.inputs →
    s.draw = s'.draw → steps n s = .next t → steps n s' = .next t' → t.out = t'.out

/-- 20_memory.md R41, R42: byte b of a block or key is port bits [63-8b : 56-8b], the port value is the big-endian reading of
the bytes, and the bits of byte b are DES positions 8b+1 (most significant) to 8b+8. -/
def Obligations.BytesLieBigEndianOnThePorts : Prop :=
  (∀ (b0 b1 b2 b3 b4 b5 b6 b7 : Byte) (v : BitVec 64), v = ofBytes b0 b1 b2 b3 b4 b5 b6 b7 →
    [b0, b1, b2, b3, b4, b5, b6, b7] = (List.range 8).map (byteOf v)) ∧
  (∀ v : BitVec 64,
    ofBytes (byteOf v 0) (byteOf v 1) (byteOf v 2) (byteOf v 3) (byteOf v 4) (byteOf v 5) (byteOf v 6) (byteOf v 7) = v) ∧
  (∀ (v : BitVec 64) (b j : Nat), b < 8 → j < 8 →
    (byteOf v b).getLsbD (7 - j) = v.getLsbD (63 - 8 * b - j) ∧
    (byteOf v b).getLsbD (7 - j) = position v (8 * b + 1 + j)) ∧
  ofBytes 0x01#8 0x23#8 0x45#8 0x67#8 0x89#8 0xAB#8 0xCD#8 0xEF#8 = 0x0123456789ABCDEF#64

/-! ## Tables, key schedule and round function -/

/-- 00_scope.md R9: output position i of Perm_T takes input position T[i], for every table with entries in 1..n; a position T
does not list is dropped, one listed twice is duplicated. -/
def Obligations.PermutationTakesListedPositions : Prop :=
  ∀ (n m : Nat) (T : List Nat) (v : BitVec n), T.length = m → (∀ p ∈ T, 1 ≤ p ∧ p ≤ n) →
    (∀ i, 1 ≤ i → i ≤ m → (permute m T v).getLsbD (m - i) = v.getLsbD (n - T.getD (i - 1) 0)) ∧
    (∀ v' : BitVec n, (∀ p ∈ T, v.getLsbD (n - p) = v'.getLsbD (n - p)) → permute m T v = permute m T v') ∧
    (∀ i j, 1 ≤ i → i ≤ m → 1 ≤ j → j ≤ m → T.getD (i - 1) 0 = T.getD (j - 1) 0 →
      (permute m T v).getLsbD (m - i) = (permute m T v).getLsbD (m - j))

/-- 00_scope.md R10: the two rotations of a 28-bit value, for s in 0, 1, 2, and that one undoes the other. -/
def Obligations.RotationsOfAKeyHalf : Prop :=
  ∀ x : KeyHalf,
    rotl28 x 0 = x ∧ rotr28 x 0 = x ∧
    rotl28 x 1 = x.extractLsb' 0 27 ++ x.extractLsb' 27 1 ∧ rotl28 x 2 = x.extractLsb' 0 26 ++ x.extractLsb' 26 2 ∧
    rotr28 x 1 = x.extractLsb' 0 1 ++ x.extractLsb' 1 27 ∧ rotr28 x 2 = x.extractLsb' 0 2 ++ x.extractLsb' 2 26 ∧
    (∀ s, s ≤ 2 → rotr28 (rotl28 x s) s = x ∧ rotl28 (rotr28 x s) s = x)

/-- 40_tables.md R81: FP is the inverse of IP, in the tables' entries and as functions on all blocks. -/
def Obligations.FinalPermutationInvertsInitial : Prop :=
  (∀ i, 1 ≤ i → i ≤ 64 → tableFP.getD (tableIP.getD (i - 1) 0 - 1) 0 = i ∧ tableIP.getD (tableFP.getD (i - 1) 0 - 1) 0 = i) ∧
  (∀ x : Block, FP (IP x) = x) ∧ (∀ x : Block, IP (FP x) = x)

/-- 41_key_schedule.md R100: the accept edge loads C and D with the halves of PC1(k); the parity positions are not read; the
rule's corner cases and example. -/
def Obligations.KeyLoadSplitsPc1 : Prop :=
  (∀ (d : Direction) (k : Key) (b : Block) (s : State), s.busy_r = false →
    ∃ t, exec (requestOf d k b) s = .next t ∧ t.C = (PC1 k).extractLsb' 28 28 ∧ t.D = (PC1 k).extractLsb' 0 28) ∧
  (∀ k : Key, PC1 (k ^^^ 0x0101010101010101#64) = PC1 k) ∧
  PC1 0x0101010101010101#64 = 0#56 ∧ PC1 0xFEFEFEFEFEFEFEFE#64 = 0xFFFFFFFFFFFFFF#56 ∧
  PC1 0xFFFFFFFFFFFFFFFF#64 = 0xFFFFFFFFFFFFFF#56 ∧ PC1 0x133457799BBCDFF1#64 = 0xF0CCAAF556678F#56 ∧
  loadC 0x133457799BBCDFF1#64 = 0xF0CCAAF#28 ∧ loadD 0x133457799BBCDFF1#64 = 0x556678F#28

/-- 20_memory.md R43, 41_key_schedule.md R105: keys that differ in parity bits alone (port bits 56, 48, ..., 0) have the same
schedule and every command does the same with them; any other position changes PC1(k) in exactly one bit; and the example. -/
def Obligations.ParityBitsNeverMatter : Prop :=
  (∀ j, j < 64 → (parityMask.getLsbD j = true ↔ j % 8 = 0)) ∧
  (∀ k k' : Key, sameButParity k k' →
    KS k = KS k' ∧
    (∀ b, DES_enc k b = DES_enc k' b ∧ DES_dec k b = DES_dec k' b) ∧
    (∀ b s, exec (.enc k b) s = exec (.enc k' b) s ∧ exec (.dec k b) s = exec (.dec k' b) s) ∧
    (∀ a d b s, exec (.rst a d k b) s = exec (.rst a d k' b) s ∧ exec (.nop d k b) s = exec (.nop d k' b) s)) ∧
  (∀ (k : Key) (j : Nat), j < 64 → j % 8 ≠ 0 →
    ∃ q, q < 56 ∧ PC1 (k ^^^ BitVec.twoPow 64 j) = PC1 k ^^^ BitVec.twoPow 56 q) ∧
  DES_enc 0x0123456789ABCDEF#64 0#64 = 0xD5D44FF720683D0D#64 ∧
  DES_enc 0x0022446688AACCEE#64 0#64 = 0xD5D44FF720683D0D#64

/-- 41_key_schedule.md R103: the round edge that executes round i = n + 1 uses K_i in an ENCRYPT and K_{17-i} in a DECRYPT. -/
def Obligations.RoundUsesItsScheduledSubkey : Prop :=
  ∀ (k : Key) (b : Block) (n : Nat) (s : State),
    (InOperation .encrypt k b n s → s.roundKey = (KS k).getD n 0#48 ∧ s.roundKey = subkey k (n + 1)) ∧
    (InOperation .decrypt k b n s → s.roundKey = (KS k).getD (15 - n) 0#48 ∧ s.roundKey = subkey k (16 - n))

/-- 41_key_schedule.md R106: the SHIFT entries sum to 28 and the RSHIFT entries to 27; so the schedule comes back to C_0 and
D_0, each rotation is undone by the opposite one, and a decryption's rounds run through C_16, C_15, ..., C_1. -/
def Obligations.RotationTotals : Prop :=
  tableSHIFT.sum = 28 ∧ tableRSHIFT.sum = 27 ∧
  (∀ i, 2 ≤ i → i ≤ 16 → RSHIFT i = SHIFT (18 - i)) ∧
  (∀ k : Key, scheduleC k 16 = loadC k ∧ scheduleD k 16 = loadD k ∧ subkey k 16 = PC2 (loadC k ++ loadD k)) ∧
  (∀ (k : Key) (i : Nat), 1 ≤ i → i ≤ 16 →
    rotr28 (scheduleC k i) (SHIFT i) = scheduleC k (i - 1) ∧ rotr28 (scheduleD k i) (SHIFT i) = scheduleD k (i - 1)) ∧
  (∀ (k : Key) (j : Nat), 1 ≤ j → j ≤ 16 →
    (List.range j).foldl (fun x r => rotateForRound .decrypt (r + 1) x) (loadC k) = scheduleC k (17 - j) ∧
    (List.range j).foldl (fun x r => rotateForRound .decrypt (r + 1) x) (loadD k) = scheduleD k (17 - j))

/-- 41_key_schedule.md R101 (corner case): where each of C_0 and D_0 is all zero or all one, the sixteen subkeys are equal and
encryption is its own inverse. -/
def Obligations.WeakKeysAreInvolutions : Prop :=
  ∀ k : Key, (loadC k = 0#28 ∨ loadC k = ~~~0#28) → (loadD k = 0#28 ∨ loadD k = ~~~0#28) →
    (∀ i, 1 ≤ i → i ≤ 16 → subkey k i = subkey k 1) ∧
    (∀ b, DES_enc k b = DES_dec k b ∧ DES_enc k (DES_enc k b) = b)

/-- 42_round_function.md R113: each group goes through its own S-box; every box takes each of its 16 outputs from exactly 4
inputs; and the rule's example. -/
def Obligations.SubstitutionIsBalanced : Prop :=
  (∀ (X : BitVec 48) (j : Nat), 1 ≤ j → j ≤ 8 → substituted X j = Sbox j (X.extractLsb' (48 - 6 * j) 6)) ∧
  (∀ j, 1 ≤ j → j ≤ 8 → ∀ o : BitVec 4,
    ((List.range 64).filter fun x => Sbox j (BitVec.ofNat 6 x) = o).length = 4) ∧
  (List.range 8).map (fun j => substituted 0x6117BA866527#48 (j + 1)) =
    [0x5#4, 0xC#4, 0x8#4, 0x2#4, 0xB#4, 0x5#4, 0x9#4, 0x7#4]

/-- 42_round_function.md R112, R114: the groups lie leftmost first, and the S-layer puts O_1 in bits 31:28 and O_8 in bits
3:0; the rules' corner cases and examples. -/
def Obligations.SubstitutionLayerLayout : Prop :=
  (∀ (X : BitVec 48) (j : Nat), 1 ≤ j → j ≤ 8 →
    group X j = X.extractLsb' (48 - 6 * j) 6 ∧ (Slayer X).extractLsb' (32 - 4 * j) 4 = Sbox j (group X j)) ∧
  (List.range 8).map (fun j => group 0x6117BA866527#48 (j + 1)) =
    [0x18#6, 0x11#6, 0x1E#6, 0x3A#6, 0x21#6, 0x26#6, 0x14#6, 0x27#6] ∧
  Slayer 0#48 = 0xEFA72C4D#32 ∧ Slayer 0xFFFFFFFFFFFF#48 = 0xD9CE3DCB#32 ∧ Slayer 0x6117BA866527#48 = 0x5C82B597#32

/-- 42_round_function.md R116: f composes E, the key mixing, the S-layer and P; only E(R) xor K matters; and the rule's corner
cases and example. -/
def Obligations.RoundFunctionComposition : Prop :=
  (∀ (R : Half) (K : Subkey), f R K = P (Slayer (E R ^^^ K))) ∧
  (∀ (R R' : Half) (K K' : Subkey), E R ^^^ K = E R' ^^^ K' → f R K = f R' K') ∧
  f 0#32 0#48 = 0xD8D8DBBC#32 ∧ f 0xFFFFFFFF#32 0#48 = 0x38DBF9CB#32 ∧ f 0#32 0xFFFFFFFFFFFF#48 = 0x38DBF9CB#32 ∧
  f 0xF0AAF0AA#32 0x1B02EFFC7072#48 = 0x234AA9BB#32

/-- 42_round_function.md R117, R118: the Feistel round and its example; the result block takes the halves in swapped order,
which undoes the swap of the last round; and that example. -/
def Obligations.FeistelRoundAndOutputOrder : Prop :=
  (∀ (L R : Half) (K : Subkey), feistelRound (L, R) K = (R, L ^^^ f R K)) ∧
  feistelRound (0xCC00CCFF#32, 0xF0AAF0AA#32) 0x1B02EFFC7072#48 = (0xF0AAF0AA#32, 0xEF4A6544#32) ∧
  (∀ (k : Key) (b : Block) (J : List Subkey) (L R : Half), J.foldl feistelRound (splitBlock b) = (L, R) →
    DES_core k b J = FP (R ++ L) ∧ (∀ K, DES_core k b (J ++ [K]) = FP ((L ^^^ f R K) ++ R))) ∧
  FP 0x0A4CD99543423234#64 = 0x85E813540F0AB405#64 ∧ FP 0x434232340A4CD995#64 ≠ 0x85E813540F0AB405#64

/-! ## The cipher -/

/-- 42_round_function.md R120: decryption inverts encryption and encryption inverts decryption, for every key and block; for
the four weak keys the two are the same function. -/
def Obligations.DecryptionInvertsEncryption : Prop :=
  (∀ (k : Key) (b : Block), DES_dec k (DES_enc k b) = b ∧ DES_enc k (DES_dec k b) = b) ∧
  (∀ k ∈ [0x0101010101010101#64, 0xFEFEFEFEFEFEFEFE#64, 0xE0E0E0E0F1F1F1F1#64, 0x1F1F1F1F0E0E0E0E#64],
    ∀ b : Block, DES_enc k b = DES_dec k b ∧ DES_enc k (DES_enc k b) = b)

/-- 42_round_function.md R121: complementing key and block complements the result; and the rule's example. -/
def Obligations.ComplementationProperty : Prop :=
  (∀ (k : Key) (b : Block), DES_enc (~~~k) (~~~b) = ~~~(DES_enc k b)) ∧
  DES_enc 0x0123456789ABCDEF#64 0x0123456789ABCDEF#64 = 0x56CC09E7CFDC4CEF#64 ∧
  DES_enc 0xFEDCBA9876543210#64 0xFEDCBA9876543210#64 = 0xA933F6183023B310#64

/-! ## Operations over many edges -/

/-- 43_commands.md R137: an operation accepted at edge t, with RST = 0 at edges t+1 to t+16 and the other inputs free, is busy
after edges t+1 to t+15 with `data_out` as before, and after edge t+16 shows the cipher's result with `done`; after edge t+17
`done` is 0 and `data_out` unchanged, and a command presented there is accepted. -/
def Obligations.OperationDeliversTheCipherResult : Prop :=
  ∀ (d : Direction) (k : Key) (b : Block) (s : State),
    s.busy_r = false → decode (s.inputAt 0) = requestOf d k b → noReset s 1 16 →
    (∀ j, 1 ≤ j → j ≤ 15 → ∃ u, steps (j + 1) s = .next u ∧ u.busy = true ∧ u.done = false ∧ u.data_out = s.data_out) ∧
    (∃ u, steps 17 s = .next u ∧ u.busy = false ∧ u.done = true ∧ u.data_out = resultOf d k b) ∧
    (fieldRST (s.inputAt 17) = 0#1 →
      ∃ u, steps 18 s = .next u ∧ u.done = false ∧ u.data_out = resultOf d k b ∧
        (∀ d' k' b', decode (s.inputAt 17) = requestOf d' k' b' → InOperation d' k' b' 0 u))

/-- 10_state.md R33: the accept edge establishes the operation's invariant, every round edge keeps it with one more round
done, and the completion edge of an encryption leaves C_16 || D_16 = C_0 || D_0, of a decryption C_1 || D_1. -/
def Obligations.OperationInvariantThroughTheRounds : Prop :=
  (∀ (d : Direction) (k : Key) (b : Block) (s : State), s.busy_r = false →
    ∃ t, exec (requestOf d k b) s = .next t ∧ InOperation d k b 0 t) ∧
  (∀ (d : Direction) (k : Key) (b : Block) (n : Nat) (i : Instr) (s : State), (∀ a d' k' b', i ≠ .rst a d' k' b') →
    InOperation d k b n s → n < 15 → ∃ t, exec i s = .next t ∧ InOperation d k b (n + 1) t) ∧
  (∀ (d : Direction) (k : Key) (b : Block) (i : Instr) (s : State), (∀ a d' k' b', i ≠ .rst a d' k' b') →
    InOperation d k b 15 s → ∃ t, exec i s = .next t ∧ (t.L, t.R) = halvesAfter d k b 16 ∧
      (d = .encrypt → t.C = scheduleC k 16 ∧ t.D = scheduleD k 16 ∧ t.C = loadC k ∧ t.D = loadD k) ∧
      (d = .decrypt → t.C = scheduleC k 1 ∧ t.D = scheduleD k 1))

/-- 10_state.md R25, R30, R33, 43_commands.md R138: the invariant of the machine with its history, which is told from the sampled
commands alone. From every state in which the registers are as a history h says (inside the operation (d, k, b) that h's
accepted command began, with as many of its rounds done as h says, or idle with `rnd` 0; `dout` the last result), an edge that
samples a command leads to a state that is as the history h followed by that command says. -/
def Obligations.EveryStepKeepsConsistency : Prop :=
  ∀ (h : History) (s t : State), Consistent h s → step s = .next t → Consistent (h.after (decode (s.inputAt 0))) t

/-- The state after reset, and the state after any RESET edge, are as the empty history says: no operation in progress, no
result (70_reset_and_hazards.md R170, R173). -/
def Obligations.ResetStatesAreConsistent : Prop :=
  Consistent History.cleared State.reset ∧ ∀ s : State, Consistent History.cleared (resetRegs s)

/-- 43_commands.md R138, 70_reset_and_hazards.md R171: from every busy state, unreachable ones included, the operation ends
within 16 edges: at its completion edge with `done`, or at a RESET edge before it. -/
def Obligations.EveryOperationEnds : Prop :=
  (∀ s : State, s.busy_r = true → noReset s 0 (15 - s.rnd.toNat) →
    ∃ t, steps (16 - s.rnd.toNat) s = .next t ∧ t.busy_r = false ∧ t.done_r = true) ∧
  (∀ s : State, s.busy_r = true → ∃ n t, 1 ≤ n ∧ n ≤ 16 ∧ steps n s = .next t ∧ t.busy_r = false)

/-- 42_round_function.md R122: the result of a command depends on direction, key and block alone: two idle cores with any
histories and any later inputs without RESET show the same result. -/
def Obligations.SameCommandSameResult : Prop :=
  ∀ (d : Direction) (k : Key) (b : Block) (s s' : State),
    s.busy_r = false → s'.busy_r = false → decode (s.inputAt 0) = requestOf d k b →
    decode (s'.inputAt 0) = requestOf d k b → noReset s 1 16 → noReset s' 1 16 →
    ∃ u u', steps 17 s = .next u ∧ steps 17 s' = .next u' ∧ u.data_out = u'.data_out

/-- 70_reset_and_hazards.md R177: after the accept edge `key_in`, `data_in` and `decrypt` may change freely: two runs that
share the accepted vector and hold RST = 0 have the same registers after every edge of the operation; and at an edge that is
no accept they are don't-care. -/
def Obligations.InputsAreSampledOnlyAtAccept : Prop :=
  (∀ (s : State) (v v' : InVec), fieldRST v = fieldRST v' → fieldSTA v = fieldSTA v' →
    (s.busy_r = true ∨ fieldRST v = 1#1 ∨ fieldSTA v = 0#1) → exec (decode v) s = exec (decode v') s) ∧
  (∀ (s : State) (v : InVec) (vs vs' : List InVec) (n : Nat),
    s.busy_r = false → fieldRST v = 0#1 → fieldSTA v = 1#1 → n ≤ 16 →
    noReset (s.drive (v :: vs)) 1 n → noReset (s.drive (v :: vs')) 1 n →
    ∃ t t', steps (n + 1) (s.drive (v :: vs)) = .next t ∧ steps (n + 1) (s.drive (v :: vs')) = .next t' ∧
      t' = { t with inputs := t'.inputs })

/-- 70_reset_and_hazards.md R178: a RESET edge inside an operation leaves the outputs 0 and they stay 0 while the host starts
nothing; and no edge before the completion shows anything of the result. -/
def Obligations.ResetAbandonsTheOperation : Prop :=
  ∀ (d : Direction) (k : Key) (b : Block) (n : Nat) (s : State), InOperation d k b n s →
    (∀ m : Nat, fieldRST (s.inputAt 0) = 1#1 →
      (∀ j, 1 ≤ j → j ≤ m → fieldSTA (s.inputAt j) = 0#1) →
      ∃ t, steps (m + 1) s = .next t ∧ t.busy = false ∧ t.done = false ∧ t.data_out = 0#64) ∧
    (fieldRST (s.inputAt 0) = 0#1 → n < 15 → ∃ t, step s = .next t ∧ t.done = false ∧ t.data_out = s.data_out)

/-- 70_reset_and_hazards.md R173: after a RESET edge the core is idle with every output 0, and the very next edge accepts. -/
def Obligations.ResetCoreAcceptsAtTheNextEdge : Prop :=
  ∀ s : State, fieldRST (s.inputAt 0) = 1#1 →
    ∃ t, step s = .next t ∧ t.busy = false ∧ t.done = false ∧ t.data_out = 0#64 ∧
      (∀ d k b, decode (s.inputAt 1) = requestOf d k b → ∃ u, step t = .next u ∧ InOperation d k b 0 u)

/-- 70_reset_and_hazards.md R176: with `start` held high an idle core accepts at once and again at the edge right after the
completion, 17 edges later, with what the inputs then hold. -/
def Obligations.StartHeldHighRepeats : Prop :=
  ∀ (s : State) (d : Direction), s.busy_r = false → noReset s 0 17 →
    (∀ j, j ≤ 17 → fieldSTA (s.inputAt j) = 1#1) → d.bit = fieldDIR (s.inputAt 17) →
    (∃ t, steps 1 s = .next t ∧ t.busy_r = true ∧ t.rnd = 0#4) ∧
    (∀ j, 1 ≤ j → j ≤ 16 → ∃ t, steps j s = .next t ∧ t.busy_r = true ∧ steps (j + 1) s = .next (roundEdge t.afterSample)) ∧
    (∃ t, steps 17 s = .next t ∧ t.busy_r = false ∧ t.done_r = true) ∧
    (∃ t, steps 18 s = .next t ∧ InOperation d (fieldKEY (s.inputAt 17)) (fieldDAT (s.inputAt 17)) 0 t)

/-- 70_reset_and_hazards.md R179: the timing table, for every key, block and direction. -/
def Obligations.LatencyAndThroughput : Prop :=
  Config.latency = 16 ∧ Config.throughput = 17 ∧
  (∀ (d : Direction) (k : Key) (b : Block) (s : State),
    s.busy_r = false → decode (s.inputAt 0) = requestOf d k b → noReset s 1 Config.throughput →
    (∀ m t, 1 ≤ m → m ≤ Config.latency → steps m s = .next t → t.busy_r = true ∧ t.done_r = false) ∧
    (∃ t, steps (Config.latency + 1) s = .next t ∧ t.busy_r = false ∧ t.done_r = true ∧ t.data_out = resultOf d k b) ∧
    (∃ t, steps (Config.latency + 2) s = .next t ∧ t.done_r = false) ∧
    (∀ d' k' b', decode (s.inputAt Config.throughput) = requestOf d' k' b' →
      ∃ t, steps (Config.throughput + 1) s = .next t ∧ InOperation d' k' b' 0 t)) ∧
  (∀ (d : Direction) (k : Key) (b : Block) (s : State), fieldRST (s.inputAt 0) = 1#1 →
    decode (s.inputAt 1) = requestOf d k b → ∃ t, steps 2 s = .next t ∧ InOperation d k b 0 t)

/-- 43_commands.md R133, 60_exceptions.md R159: an idle core to which the host presents nothing keeps every register, `done`
apart, for any number of edges. -/
def Obligations.IdleCoreHoldsItsState : Prop :=
  ∀ (n : Nat) (s : State), s.busy_r = false →
    (∀ j, j ≤ n → fieldRST (s.inputAt j) = 0#1 ∧ fieldSTA (s.inputAt j) = 0#1) →
    steps (n + 1) s = .next { s with done_r := false, inputs := s.inputs.drop (n + 1), draw := s.draw + (n + 1) }

/-- 30_encoding.md R68: the pseudo-instructions' expansions, their numbers of edges, and the results of ENCW and DECW on a
core that is idle at their first edge. -/
def Obligations.PseudoInstructionsGiveTheirResults : Prop :=
  (∀ n, (Pseudo.nopTimes n).expand = List.replicate n lineNOP) ∧
  Pseudo.wait16.expand = (Pseudo.nopTimes 16).expand ∧ Pseudo.wait16.expand.length = 16 ∧
  (∀ k b, (Pseudo.encw k b).expand = lineENC k b :: Pseudo.wait16.expand ∧
    (Pseudo.decw k b).expand = lineDEC k b :: Pseudo.wait16.expand ∧
    (Pseudo.encw k b).expand.length = 17 ∧ (Pseudo.decw k b).expand.length = 17) ∧
  (∀ (k : Key) (b : Block) (s : State) (rest : List InVec), s.busy_r = false →
    (∃ t, steps 17 (s.drive ((Pseudo.encw k b).expand.map encode ++ rest)) = .next t ∧ t.done = true ∧
      t.data_out = DES_enc k b) ∧
    (∃ t, steps 17 (s.drive ((Pseudo.decw k b).expand.map encode ++ rest)) = .next t ∧ t.done = true ∧
      t.data_out = DES_dec k b))

/-- 70_reset_and_hazards.md R171, R172, 60_exceptions.md R159: whatever the registers hold when power comes, the first RESET
edge gives the reset state (the free values are log 3's; the statement holds for every value of them). -/
def Obligations.ResetMakesPowerOnStateKnown : Prop :=
  ∀ s : State, fieldRST (s.powerOn.inputAt 0) = 1#1 →
    step s.powerOn = .next { State.reset with inputs := s.inputs.tail, draw := s.draw + 2 }

/-- 60_exceptions.md R157: an edge of one instance changes that instance alone, as `step` says, and what it does depends on no
other instance (log 7). -/
def Obligations.InstancesShareNothing : Prop :=
  ∀ (i : Nat) (cores : List State),
    ∃ cores', stepInstance i cores = .next cores' ∧ cores'.length = cores.length ∧
      (∀ j, j ≠ i → cores'[j]? = cores[j]?) ∧
      (∀ s, cores[i]? = some s → ∃ t, step s = .next t ∧ cores'[i]? = some t)
end

