-- ==== Sys2Proof/Laws/Decode.lean ====
section
/-! SUPPORT. The fields of a vector built from its parts, and which rows of the opcode table such a vector selects. -/

namespace Sys2Proof

theorem field_high {n m : Nat} (c : BitVec n) (x : BitVec m) (start len : Nat) (h : m ≤ start) :
    (c ++ x).extractLsb' start len = c.extractLsb' (start - m) len := by
  rw [BitVec.extractLsb'_append_eq_ite, dif_neg (by omega)]

theorem field_low {n m : Nat} (c : BitVec n) (x : BitVec m) (start len : Nat) (h : start + len ≤ m) (h0 : 0 < len) :
    (c ++ x).extractLsb' start len = x.extractLsb' start len := by
  rw [BitVec.extractLsb'_append_eq_ite, dif_pos (by omega), dif_pos h]

/-- IN from its control field, its key and its block (30_encoding.md R60). -/
def vectorOf (c : BitVec 3) (k : Key) (b : Block) : InVec := c ++ k ++ b

@[simp] theorem fieldDAT_vectorOf (c : BitVec 3) (k : Key) (b : Block) : fieldDAT (vectorOf c k b) = b := by
  show (c ++ k ++ b).extractLsb' 0 64 = b
  rw [field_low _ _ _ _ (by omega) (by omega), BitVec.extractLsb'_eq_self]

@[simp] theorem fieldKEY_vectorOf (c : BitVec 3) (k : Key) (b : Block) : fieldKEY (vectorOf c k b) = k := by
  show (c ++ k ++ b).extractLsb' 64 64 = k
  rw [field_high _ _ _ _ (by omega), field_low _ _ _ _ (by omega) (by omega), BitVec.extractLsb'_eq_self]

@[simp] theorem fieldDIR_vectorOf (c : BitVec 3) (k : Key) (b : Block) :
    fieldDIR (vectorOf c k b) = c.extractLsb' 0 1 := by
  show (c ++ k ++ b).extractLsb' 128 1 = _
  rw [field_high _ _ _ _ (by omega), field_high _ _ _ _ (by omega)]

@[simp] theorem fieldSTA_vectorOf (c : BitVec 3) (k : Key) (b : Block) :
    fieldSTA (vectorOf c k b) = c.extractLsb' 1 1 := by
  show (c ++ k ++ b).extractLsb' 129 1 = _
  rw [field_high _ _ _ _ (by omega), field_high _ _ _ _ (by omega)]

@[simp] theorem fieldRST_vectorOf (c : BitVec 3) (k : Key) (b : Block) :
    fieldRST (vectorOf c k b) = c.extractLsb' 2 1 := by
  show (c ++ k ++ b).extractLsb' 130 1 = _
  rw [field_high _ _ _ _ (by omega), field_high _ _ _ _ (by omega)]

theorem encode_rst (a d : BitVec 1) (k : Key) (b : Block) : encode (.rst a d k b) = vectorOf (1#1 ++ a ++ d) k b := rfl
theorem encode_enc (k : Key) (b : Block) : encode (.enc k b) = vectorOf 0b010#3 k b := rfl
theorem encode_dec (k : Key) (b : Block) : encode (.dec k b) = vectorOf 0b011#3 k b := rfl
theorem encode_nop (d : BitVec 1) (k : Key) (b : Block) : encode (.nop d k b) = vectorOf (0b00#2 ++ d) k b := rfl

/-- Every vector is made of its three parts. -/
theorem eq_vectorOf (v : InVec) : v = vectorOf (fieldCTL v) (fieldKEY v) (fieldDAT v) := by
  apply BitVec.eq_of_getLsbD_eq
  intro j hj
  show v.getLsbD j = (fieldCTL v ++ fieldKEY v ++ fieldDAT v).getLsbD j
  rw [BitVec.getLsbD_append]
  split
  · simp [fieldDAT, *]
  · rw [BitVec.getLsbD_append]
    split
    · have : 64 + (j - 64) = j := by omega
      simp [fieldKEY, *]
    · have h1 : 128 + (j - 64 - 64) = j := by omega
      have h2 : j - 64 - 64 < 3 := by omega
      simp [fieldCTL, h1, h2]

theorem bit_eq_zero_or_one (x : BitVec 1) : x = 0#1 ∨ x = 1#1 := by revert x; decide

/-! The command of a vector, for each row of 30_encoding.md R62. -/

theorem decode_of_rst {v : InVec} (h : fieldRST v = 1#1) :
    decode v = .rst (fieldSTA v) (fieldDIR v) (fieldKEY v) (fieldDAT v) := by simp [decode, h]

theorem decode_of_enc {v : InVec} (h : fieldRST v = 0#1) (h1 : fieldSTA v = 1#1) (h2 : fieldDIR v = 0#1) :
    decode v = .enc (fieldKEY v) (fieldDAT v) := by simp [decode, h, h1, h2]

theorem decode_of_dec {v : InVec} (h : fieldRST v = 0#1) (h1 : fieldSTA v = 1#1) (h2 : fieldDIR v = 1#1) :
    decode v = .dec (fieldKEY v) (fieldDAT v) := by simp [decode, h, h1, h2]

theorem decode_of_nop {v : InVec} (h : fieldRST v = 0#1) (h1 : fieldSTA v = 0#1) :
    decode v = .nop (fieldDIR v) (fieldKEY v) (fieldDAT v) := by simp [decode, h, h1]

/-- Only a vector with RST = 1 is a RESET. -/
theorem decode_ne_rst {v : InVec} (h : fieldRST v = 0#1) : ∀ a d k b, decode v ≠ .rst a d k b := by
  intro a d k b
  obtain h1 | h1 := bit_eq_zero_or_one (fieldSTA v)
  · simp [decode_of_nop h h1]
  · obtain h2 | h2 := bit_eq_zero_or_one (fieldDIR v)
    · simp [decode_of_enc h h1 h2]
    · simp [decode_of_dec h h1 h2]

/-- A row whose mask and pattern lie in the control field looks at that field alone. -/
theorem selectedBy_vectorOf (name : String) (m p c : BitVec 3) (k : Key) (b : Block) :
    CommandRow.selectedBy ⟨name, vectorOf m 0#64 0#64, vectorOf p 0#64 0#64⟩ (vectorOf c k b) = (c &&& m == p) := by
  have hand : vectorOf c k b &&& vectorOf m 0#64 0#64 = vectorOf (c &&& m) 0#64 0#64 := by
    show (c ++ k ++ b) &&& (m ++ 0#64 ++ 0#64) = (c &&& m) ++ 0#64 ++ 0#64
    rw [BitVec.and_append, BitVec.and_append, BitVec.and_zero, BitVec.and_zero]
  have hinj : vectorOf (c &&& m) 0#64 0#64 = vectorOf p 0#64 0#64 ↔ c &&& m = p :=
    ⟨fun h => by
      have h2 := congrArg (fun v : InVec => v.extractLsb' 128 3) h
      have hx : ∀ x : BitVec 3, (vectorOf x 0#64 0#64).extractLsb' 128 3 = x := fun x => by
        show (x ++ 0#64 ++ 0#64).extractLsb' 128 3 = x
        rw [field_high _ _ _ _ (by omega), field_high _ _ _ _ (by omega), BitVec.extractLsb'_eq_self]
      simpa only [hx] using h2, fun h => by rw [h]⟩
  unfold CommandRow.selectedBy
  rw [hand, Bool.eq_iff_iff, beq_iff_eq, beq_iff_eq, hinj]

/-- The rows of the opcode table, their masks and patterns as control fields (30_encoding.md R62). -/
theorem commandRows_eq : commandRows =
    [ ⟨"RST", vectorOf 0b100#3 0#64 0#64, vectorOf 0b100#3 0#64 0#64⟩,
      ⟨"ENC", vectorOf 0b111#3 0#64 0#64, vectorOf 0b010#3 0#64 0#64⟩,
      ⟨"DEC", vectorOf 0b111#3 0#64 0#64, vectorOf 0b011#3 0#64 0#64⟩,
      ⟨"NOP", vectorOf 0b110#3 0#64 0#64, vectorOf 0b000#3 0#64 0#64⟩ ] := by decide +kernel

/-- Which rows a vector selects depends on its control field alone. -/
theorem rows_of_vectorOf (c : BitVec 3) (k : Key) (b : Block) :
    (commandRows.filter (·.selectedBy (vectorOf c k b))).map (·.mnemonic) =
      (commandRows.filter (·.selectedBy (vectorOf c 0#64 0#64))).map (·.mnemonic) := by
  rw [commandRows_eq]
  simp only [List.filter_cons, List.filter_nil, selectedBy_vectorOf]

end Sys2Proof
end

