-- ==== Sys2Proof/Laws/State.lean ====
section
/-! SUPPORT. What each update of the state does to each field, each true by `rfl`. -/

namespace Sys2Proof.Machine

/-! Writing the two status flags. -/

@[simp] theorem setFlags_busy_r (s : State) (fl : Flags) : (s.setFlags fl).busy_r = fl.busy := rfl
@[simp] theorem setFlags_done_r (s : State) (fl : Flags) : (s.setFlags fl).done_r = fl.done := rfl
@[simp] theorem setFlags_dir (s : State) (fl : Flags) : (s.setFlags fl).dir = s.dir := rfl
@[simp] theorem setFlags_rnd (s : State) (fl : Flags) : (s.setFlags fl).rnd = s.rnd := rfl
@[simp] theorem setFlags_L (s : State) (fl : Flags) : (s.setFlags fl).L = s.L := rfl
@[simp] theorem setFlags_R (s : State) (fl : Flags) : (s.setFlags fl).R = s.R := rfl
@[simp] theorem setFlags_C (s : State) (fl : Flags) : (s.setFlags fl).C = s.C := rfl
@[simp] theorem setFlags_D (s : State) (fl : Flags) : (s.setFlags fl).D = s.D := rfl
@[simp] theorem setFlags_dout (s : State) (fl : Flags) : (s.setFlags fl).dout = s.dout := rfl
@[simp] theorem setFlags_inputs (s : State) (fl : Flags) : (s.setFlags fl).inputs = s.inputs := rfl
@[simp] theorem setFlags_draw (s : State) (fl : Flags) : (s.setFlags fl).draw = s.draw := rfl

/-! Sampling the ports. -/

@[simp] theorem afterSample_busy_r (s : State) : (s.afterSample).busy_r = s.busy_r := rfl
@[simp] theorem afterSample_done_r (s : State) : (s.afterSample).done_r = s.done_r := rfl
@[simp] theorem afterSample_dir (s : State) : (s.afterSample).dir = s.dir := rfl
@[simp] theorem afterSample_rnd (s : State) : (s.afterSample).rnd = s.rnd := rfl
@[simp] theorem afterSample_L (s : State) : (s.afterSample).L = s.L := rfl
@[simp] theorem afterSample_R (s : State) : (s.afterSample).R = s.R := rfl
@[simp] theorem afterSample_C (s : State) : (s.afterSample).C = s.C := rfl
@[simp] theorem afterSample_D (s : State) : (s.afterSample).D = s.D := rfl
@[simp] theorem afterSample_dout (s : State) : (s.afterSample).dout = s.dout := rfl
@[simp] theorem afterSample_inputs (s : State) : (s.afterSample).inputs = s.inputs.tail := rfl
@[simp] theorem afterSample_draw (s : State) : (s.afterSample).draw = s.draw + 1 := rfl

/-! The host deciding what it will drive. -/

@[simp] theorem drive_busy_r (s : State) (vs : List InVec) : (s.drive vs).busy_r = s.busy_r := rfl
@[simp] theorem drive_done_r (s : State) (vs : List InVec) : (s.drive vs).done_r = s.done_r := rfl
@[simp] theorem drive_dir (s : State) (vs : List InVec) : (s.drive vs).dir = s.dir := rfl
@[simp] theorem drive_rnd (s : State) (vs : List InVec) : (s.drive vs).rnd = s.rnd := rfl
@[simp] theorem drive_L (s : State) (vs : List InVec) : (s.drive vs).L = s.L := rfl
@[simp] theorem drive_R (s : State) (vs : List InVec) : (s.drive vs).R = s.R := rfl
@[simp] theorem drive_C (s : State) (vs : List InVec) : (s.drive vs).C = s.C := rfl
@[simp] theorem drive_D (s : State) (vs : List InVec) : (s.drive vs).D = s.D := rfl
@[simp] theorem drive_dout (s : State) (vs : List InVec) : (s.drive vs).dout = s.dout := rfl
@[simp] theorem drive_inputs (s : State) (vs : List InVec) : (s.drive vs).inputs = vs := rfl
@[simp] theorem drive_draw (s : State) (vs : List InVec) : (s.drive vs).draw = s.draw := rfl

/-! RESET. -/

@[simp] theorem resetRegs_busy_r (s : State) : (resetRegs s).busy_r = false := rfl
@[simp] theorem resetRegs_done_r (s : State) : (resetRegs s).done_r = false := rfl
@[simp] theorem resetRegs_dir (s : State) : (resetRegs s).dir = .encrypt := rfl
@[simp] theorem resetRegs_rnd (s : State) : (resetRegs s).rnd = 0#4 := rfl
@[simp] theorem resetRegs_L (s : State) : (resetRegs s).L = 0#32 := rfl
@[simp] theorem resetRegs_R (s : State) : (resetRegs s).R = 0#32 := rfl
@[simp] theorem resetRegs_C (s : State) : (resetRegs s).C = 0#28 := rfl
@[simp] theorem resetRegs_D (s : State) : (resetRegs s).D = 0#28 := rfl
@[simp] theorem resetRegs_dout (s : State) : (resetRegs s).dout = 0#64 := rfl
@[simp] theorem resetRegs_inputs (s : State) : (resetRegs s).inputs = s.inputs := rfl
@[simp] theorem resetRegs_draw (s : State) : (resetRegs s).draw = s.draw := rfl

/-! An accept. -/

@[simp] theorem accept_busy_r (d : Direction) (k : Key) (b : Block) (s : State) : (accept d k b s).busy_r = true := rfl
@[simp] theorem accept_done_r (d : Direction) (k : Key) (b : Block) (s : State) : (accept d k b s).done_r = false := rfl
@[simp] theorem accept_dir (d : Direction) (k : Key) (b : Block) (s : State) : (accept d k b s).dir = d := rfl
@[simp] theorem accept_rnd (d : Direction) (k : Key) (b : Block) (s : State) : (accept d k b s).rnd = 0#4 := rfl
@[simp] theorem accept_L (d : Direction) (k : Key) (b : Block) (s : State) : (accept d k b s).L = (splitBlock b).1 := rfl
@[simp] theorem accept_R (d : Direction) (k : Key) (b : Block) (s : State) : (accept d k b s).R = (splitBlock b).2 := rfl
@[simp] theorem accept_C (d : Direction) (k : Key) (b : Block) (s : State) : (accept d k b s).C = loadC k := rfl
@[simp] theorem accept_D (d : Direction) (k : Key) (b : Block) (s : State) : (accept d k b s).D = loadD k := rfl
@[simp] theorem accept_dout (d : Direction) (k : Key) (b : Block) (s : State) : (accept d k b s).dout = s.dout := rfl
@[simp] theorem accept_inputs (d : Direction) (k : Key) (b : Block) (s : State) : (accept d k b s).inputs = s.inputs := rfl
@[simp] theorem accept_draw (d : Direction) (k : Key) (b : Block) (s : State) : (accept d k b s).draw = s.draw := rfl

/-! IDLE. -/

@[simp] theorem idleEdge_busy_r (s : State) : (idleEdge s).busy_r = s.busy_r := rfl
@[simp] theorem idleEdge_done_r (s : State) : (idleEdge s).done_r = false := rfl
@[simp] theorem idleEdge_dir (s : State) : (idleEdge s).dir = s.dir := rfl
@[simp] theorem idleEdge_rnd (s : State) : (idleEdge s).rnd = s.rnd := rfl
@[simp] theorem idleEdge_L (s : State) : (idleEdge s).L = s.L := rfl
@[simp] theorem idleEdge_R (s : State) : (idleEdge s).R = s.R := rfl
@[simp] theorem idleEdge_C (s : State) : (idleEdge s).C = s.C := rfl
@[simp] theorem idleEdge_D (s : State) : (idleEdge s).D = s.D := rfl
@[simp] theorem idleEdge_dout (s : State) : (idleEdge s).dout = s.dout := rfl
@[simp] theorem idleEdge_inputs (s : State) : (idleEdge s).inputs = s.inputs := rfl
@[simp] theorem idleEdge_draw (s : State) : (idleEdge s).draw = s.draw := rfl

/-! ROUND. -/

@[simp] theorem roundEdge_busy_r (s : State) : (roundEdge s).busy_r = (flagsAfterRound s).busy := rfl
@[simp] theorem roundEdge_done_r (s : State) : (roundEdge s).done_r = (flagsAfterRound s).done := rfl
@[simp] theorem roundEdge_dir (s : State) : (roundEdge s).dir = s.dir := rfl
@[simp] theorem roundEdge_rnd (s : State) : (roundEdge s).rnd = s.rnd + 1#4 := rfl
@[simp] theorem roundEdge_L (s : State) : (roundEdge s).L = s.nextHalves.1 := rfl
@[simp] theorem roundEdge_R (s : State) : (roundEdge s).R = s.nextHalves.2 := rfl
@[simp] theorem roundEdge_C (s : State) : (roundEdge s).C = s.nextC := rfl
@[simp] theorem roundEdge_D (s : State) : (roundEdge s).D = s.nextD := rfl
@[simp] theorem roundEdge_dout (s : State) : (roundEdge s).dout = if s.lastRound then joinHalves s.nextHalves else s.dout := rfl
@[simp] theorem roundEdge_inputs (s : State) : (roundEdge s).inputs = s.inputs := rfl
@[simp] theorem roundEdge_draw (s : State) : (roundEdge s).draw = s.draw := rfl

@[simp] theorem powerOn_inputs (s : State) : s.powerOn.inputs = s.inputs := rfl
@[simp] theorem powerOn_draw (s : State) : s.powerOn.draw = s.draw + 1 := rfl

/-! The flags of the fixed rules, and the round number. -/

@[simp] theorem flagsAfterReset_busy : flagsAfterReset.busy = false := rfl
@[simp] theorem flagsAfterReset_done : flagsAfterReset.done = false := rfl
@[simp] theorem flagsAfterAccept_busy : flagsAfterAccept.busy = true := rfl
@[simp] theorem flagsAfterAccept_done : flagsAfterAccept.done = false := rfl
@[simp] theorem flagsAfterIdle_busy (s : State) : (flagsAfterIdle s).busy = s.busy_r := rfl
@[simp] theorem flagsAfterIdle_done (s : State) : (flagsAfterIdle s).done = false := rfl

@[simp] theorem flagsAfterRound_busy (s : State) : (flagsAfterRound s).busy = (!s.lastRound && s.busy_r) := by
  unfold flagsAfterRound; cases s.lastRound <;> rfl

@[simp] theorem flagsAfterRound_done (s : State) : (flagsAfterRound s).done = s.lastRound := by
  unfold flagsAfterRound; cases s.lastRound <;> rfl

theorem lastRound_iff (s : State) : s.lastRound = true ↔ s.rnd.toNat = 15 := by
  unfold State.lastRound
  rw [beq_iff_eq, ← BitVec.toNat_inj]
  rfl

/-! The input ports: the host's list is consumed from its head, so what edge j + 1 samples now is what edge j samples after
one more edge. -/

@[simp] theorem afterSample_inputAt (s : State) (j : Nat) : s.afterSample.inputAt j = s.inputAt (j + 1) := by
  unfold State.inputAt State.afterSample
  cases s.inputs <;> simp [Nat.add_comm, Nat.add_left_comm]

theorem inputAt_congr {s t : State} (hi : t.inputs = s.inputs) (hd : t.draw = s.draw) (j : Nat) :
    t.inputAt j = s.inputAt j := by
  unfold State.inputAt; rw [hi, hd]

@[simp] theorem resetRegs_inputAt (s : State) (j : Nat) : (resetRegs s).inputAt j = s.inputAt j := rfl
@[simp] theorem accept_inputAt (d : Direction) (k : Key) (b : Block) (s : State) (j : Nat) :
    (accept d k b s).inputAt j = s.inputAt j := rfl
@[simp] theorem idleEdge_inputAt (s : State) (j : Nat) : (idleEdge s).inputAt j = s.inputAt j := rfl
@[simp] theorem roundEdge_inputAt (s : State) (j : Nat) : (roundEdge s).inputAt j = s.inputAt j := rfl
@[simp] theorem drive_inputAt_zero (s : State) (v : InVec) (vs : List InVec) : (s.drive (v :: vs)).inputAt 0 = v := rfl
@[simp] theorem drive_inputAt_succ (s : State) (v : InVec) (vs : List InVec) (j : Nat) :
    (s.drive (v :: vs)).inputAt (j + 1) = (s.afterSample.drive vs).inputAt j := by
  simp [State.inputAt, Nat.add_comm, Nat.add_left_comm]

/-- The host's own vector is what the next edge samples. -/
@[simp] theorem withFetchWord_sampled (s : State) (nbits w : Nat) :
    (s.withFetchWord nbits w).sampled = vectorOfTableWord nbits w := rfl

end Sys2Proof.Machine
end

