-- ==== Sys2Proof/Laws/Commands.lean ====
section
/-! SUPPORT. Everything a command can do, and everything a step can do, each said once. -/

namespace Sys2Proof.Machine

theorem unlessBusy_busy {idle : State → State} {s : State} (h : s.busy_r = true) :
    unlessBusy idle s = roundEdge s := by simp [unlessBusy, h]

theorem unlessBusy_idle {idle : State → State} {s : State} (h : s.busy_r = false) :
    unlessBusy idle s = idle s := by simp [unlessBusy, h]

@[simp] theorem exec_rst (a d : BitVec 1) (k : Key) (b : Block) (s : State) :
    exec (.rst a d k b) s = .next (resetRegs s) := rfl
@[simp] theorem exec_enc (k : Key) (b : Block) (s : State) :
    exec (.enc k b) s = .next (unlessBusy (accept .encrypt k b) s) := rfl
@[simp] theorem exec_dec (k : Key) (b : Block) (s : State) :
    exec (.dec k b) s = .next (unlessBusy (accept .decrypt k b) s) := rfl
@[simp] theorem exec_nop (d : BitVec 1) (k : Key) (b : Block) (s : State) :
    exec (.nop d k b) s = .next (unlessBusy idleEdge s) := rfl

/-- What one command can do: RESET, the ROUND step of a busy core, an accept, or IDLE. -/
theorem exec_next_cases {i : Instr} {s t : State} (h : exec i s = .next t) :
    (∃ a d k b, i = .rst a d k b ∧ t = resetRegs s) ∨
    ((∀ a d k b, i ≠ .rst a d k b) ∧ s.busy_r = true ∧ t = roundEdge s) ∨
    (s.busy_r = false ∧ ∃ k b, i = .enc k b ∧ t = accept .encrypt k b s) ∨
    (s.busy_r = false ∧ ∃ k b, i = .dec k b ∧ t = accept .decrypt k b s) ∨
    (s.busy_r = false ∧ ∃ d k b, i = .nop d k b ∧ t = idleEdge s) := by
  cases i with
  | rst a d k b => exact .inl ⟨a, d, k, b, rfl, by simpa using h.symm⟩
  | enc k b =>
    rw [exec_enc, Host.Outcome.next.injEq] at h
    cases hb : s.busy_r with
    | true => exact .inr (.inl ⟨by simp, rfl, by rw [← h, unlessBusy_busy hb]⟩)
    | false => exact .inr (.inr (.inl ⟨rfl, k, b, rfl, by rw [← h, unlessBusy_idle hb]⟩))
  | dec k b =>
    rw [exec_dec, Host.Outcome.next.injEq] at h
    cases hb : s.busy_r with
    | true => exact .inr (.inl ⟨by simp, rfl, by rw [← h, unlessBusy_busy hb]⟩)
    | false => exact .inr (.inr (.inr (.inl ⟨rfl, k, b, rfl, by rw [← h, unlessBusy_idle hb]⟩)))
  | nop d k b =>
    rw [exec_nop, Host.Outcome.next.injEq] at h
    cases hb : s.busy_r with
    | true => exact .inr (.inl ⟨by simp, rfl, by rw [← h, unlessBusy_busy hb]⟩)
    | false => exact .inr (.inr (.inr (.inr ⟨rfl, d, k, b, rfl, by rw [← h, unlessBusy_idle hb]⟩)))

/-- A busy core runs its ROUND step whatever the command, RESET apart. -/
theorem exec_while_busy {i : Instr} {s : State} (hi : ∀ a d k b, i ≠ .rst a d k b) (hb : s.busy_r = true) :
    exec i s = .next (roundEdge s) := by
  cases i with
  | rst a d k b => exact absurd rfl (hi a d k b)
  | enc k b => rw [exec_enc, unlessBusy_busy hb]
  | dec k b => rw [exec_dec, unlessBusy_busy hb]
  | nop d k b => rw [exec_nop, unlessBusy_busy hb]

/-- No command touches the two fields that stand for the host. -/
theorem exec_keeps_host {i : Instr} {s t : State} (h : exec i s = .next t) :
    t.inputs = s.inputs ∧ t.draw = s.draw := by
  obtain ⟨_, _, _, _, -, rfl⟩ | ⟨-, -, rfl⟩ | ⟨-, _, _, -, rfl⟩ | ⟨-, _, _, -, rfl⟩ | ⟨-, _, _, _, -, rfl⟩ :=
    exec_next_cases h <;> exact ⟨rfl, rfl⟩

/-- After one edge, the vector of edge `j` is what edge `j + 1` had before. -/
theorem step_inputAt {s t : State} (h : step s = .next t) (j : Nat) : t.inputAt j = s.inputAt (j + 1) := by
  obtain ⟨hi, hd⟩ := exec_keeps_host h
  rw [inputAt_congr hi hd, afterSample_inputAt]

/-- What one step can do, by the fields of the vector it samples. -/
theorem step_next_cases {s t : State} (h : step s = .next t) :
    (fieldRST (s.inputAt 0) = 1#1 ∧ t = resetRegs s.afterSample) ∨
    (fieldRST (s.inputAt 0) = 0#1 ∧ s.busy_r = true ∧ t = roundEdge s.afterSample) ∨
    (fieldRST (s.inputAt 0) = 0#1 ∧ s.busy_r = false ∧ fieldSTA (s.inputAt 0) = 1#1 ∧
      ∃ d : Direction, d.bit = fieldDIR (s.inputAt 0) ∧
        t = accept d (fieldKEY (s.inputAt 0)) (fieldDAT (s.inputAt 0)) s.afterSample) ∨
    (fieldRST (s.inputAt 0) = 0#1 ∧ s.busy_r = false ∧ fieldSTA (s.inputAt 0) = 0#1 ∧ t = idleEdge s.afterSample) := by
  have e : exec (decode (s.inputAt 0)) s.afterSample = .next t := h
  obtain h0 | h0 := bit_eq_zero_or_one (fieldRST (s.inputAt 0))
  · cases hb : s.busy_r with
    | true =>
      rw [exec_while_busy (s := s.afterSample) (decode_ne_rst h0) hb, Host.Outcome.next.injEq] at e
      exact .inr (.inl ⟨h0, rfl, e.symm⟩)
    | false =>
      obtain h1 | h1 := bit_eq_zero_or_one (fieldSTA (s.inputAt 0))
      · rw [decode_of_nop h0 h1, exec_nop, unlessBusy_idle (s := s.afterSample) hb, Host.Outcome.next.injEq] at e
        exact .inr (.inr (.inr ⟨h0, rfl, h1, e.symm⟩))
      · obtain h2 | h2 := bit_eq_zero_or_one (fieldDIR (s.inputAt 0))
        · rw [decode_of_enc h0 h1 h2, exec_enc, unlessBusy_idle (s := s.afterSample) hb, Host.Outcome.next.injEq] at e
          exact .inr (.inr (.inl ⟨h0, rfl, h1, .encrypt, h2.symm, e.symm⟩))
        · rw [decode_of_dec h0 h1 h2, exec_dec, unlessBusy_idle (s := s.afterSample) hb, Host.Outcome.next.injEq] at e
          exact .inr (.inr (.inl ⟨h0, rfl, h1, .decrypt, h2.symm, e.symm⟩))
  · rw [decode_of_rst h0, exec_rst, Host.Outcome.next.injEq] at e
    exact .inl ⟨h0, e.symm⟩

end Sys2Proof.Machine
end

