-- ==== Sys2Proof/Laws/Operands.lean ====
section
/-! SUPPORT. What a table permutation does to each bit and to an xor, and what the table functions are made of. -/

namespace Sys2Proof.Machine

theorem getLsbD_foldl_shiftConcat {m : Nat} (bs : List Bool) (w : BitVec m) (j : Nat) :
    (bs.foldl (fun w b => w.shiftConcat b) w).getLsbD j =
      (decide (j < m) && if j < bs.length then bs.getD (bs.length - 1 - j) false else w.getLsbD (j - bs.length)) := by
  induction bs generalizing w j with
  | nil =>
    by_cases h : j < m
    · simp [h]
    · simp [BitVec.getLsbD_of_ge w j (by omega)]
  | cons b bs ih =>
    simp only [List.foldl_cons, ih, BitVec.getLsbD_shiftConcat, List.length_cons]
    by_cases h : j < m
    · have hm : j - bs.length < m := by omega
      by_cases h1 : j < bs.length
      · have hx : bs.length + 1 - 1 - j = (bs.length - 1 - j) + 1 := by omega
        have h2 : j < bs.length + 1 := by omega
        rw [hx, List.getD_cons_succ, if_pos h1, if_pos h2]
      · by_cases h3 : j = bs.length
        · subst h3; simp [h]; omega
        · have h2 : ¬ j < bs.length + 1 := by omega
          have h4 : j - bs.length ≠ 0 := by omega
          have h5 : j - bs.length - 1 = j - (bs.length + 1) := by omega
          simp [h, h1, h2, h4, h5, hm]
    · simp [h]

theorem permute_eq_foldl {n : Nat} (m : Nat) (T : List Nat) (v : BitVec n) :
    permute m T v = (T.map (position v)).foldl (fun w b => w.shiftConcat b) 0#m := by
  unfold permute; rw [List.foldl_map]

/-- Bit `j` of a permuted vector, counted from the least significant: the spec lemma of `permute`. -/
theorem getLsbD_permute {n : Nat} (m : Nat) (T : List Nat) (v : BitVec n) (j : Nat) :
    (permute m T v).getLsbD j =
      (decide (j < m) && (decide (j < T.length) && position v (T.getD (T.length - 1 - j) 0))) := by
  rw [permute_eq_foldl, getLsbD_foldl_shiftConcat]
  by_cases h : j < T.length
  · have h1 : T.length - 1 - j < T.length := by omega
    simp [h, List.getElem?_eq_getElem h1]
  · simp [h]

@[simp] theorem position_xor {n : Nat} (v w : BitVec n) (p : Nat) :
    position (v ^^^ w) p = (position v p ^^ position w p) := by simp [position]

/-- A table permutation commutes with xor. -/
theorem permute_xor {n : Nat} (m : Nat) (T : List Nat) (v w : BitVec n) :
    permute m T (v ^^^ w) = permute m T v ^^^ permute m T w := by
  apply BitVec.eq_of_getLsbD_eq
  intro j hj
  simp only [BitVec.getLsbD_xor, getLsbD_permute, position_xor]
  by_cases h : j < T.length <;> simp [hj, h]

/-- A table permutation whose entries are all positions of the input commutes with complement. -/
theorem permute_not {n : Nat} (m : Nat) (T : List Nat) (hT : T.length = m) (hp : ∀ p ∈ T, 1 ≤ p ∧ p ≤ n)
    (v : BitVec n) : permute m T (~~~v) = ~~~(permute m T v) := by
  apply BitVec.eq_of_getLsbD_eq
  intro j hj
  have h1 : j < T.length := by omega
  have hl : T.length - 1 - j < T.length := by omega
  have hr := hp _ (List.getElem_mem hl)
  have hb : n - T[T.length - 1 - j] < n := by omega
  simp only [BitVec.getLsbD_not, getLsbD_permute, hj, h1, position, List.getD_eq_getElem?_getD,
    List.getElem?_eq_getElem hl, Option.getD_some]
  simp [hb]

theorem IP_xor (v w : BitVec 64) : IP (v ^^^ w) = IP v ^^^ IP w := permute_xor 64 tableIP v w
theorem FP_xor (v w : BitVec 64) : FP (v ^^^ w) = FP v ^^^ FP w := permute_xor 64 tableFP v w
theorem E_xor (v w : BitVec 32) : E (v ^^^ w) = E v ^^^ E w := permute_xor 48 tableE v w
theorem P_xor (v w : BitVec 32) : P (v ^^^ w) = P v ^^^ P w := permute_xor 32 tableP v w
theorem PC1_xor (v w : BitVec 64) : PC1 (v ^^^ w) = PC1 v ^^^ PC1 w := permute_xor 56 tablePC1 v w
theorem PC2_xor (v w : BitVec 56) : PC2 (v ^^^ w) = PC2 v ^^^ PC2 w := permute_xor 48 tablePC2 v w

/-- C_0 || D_0 is PC1(k). -/
theorem loadC_append_loadD (k : Key) : loadC k ++ loadD k = PC1 k := by
  simp only [loadC, loadD]
  apply BitVec.eq_of_getLsbD_eq
  intro j hj
  rw [BitVec.getLsbD_append]
  simp only [BitVec.getLsbD_extractLsb']
  by_cases h : j < 28
  · simp [h]
  · have h1 : j - 28 < 28 := by omega
    have h2 : 28 + (j - 28) = j := by omega
    simp [h, h1, h2]

/-! The rotations, bit by bit. -/

theorem getLsbD_rotl28 (x : KeyHalf) (a j : Nat) (hj : j < 28) :
    (rotl28 x a).getLsbD j = x.getLsbD ((j + (28 - a % 28)) % 28) := by
  simp only [rotl28, BitVec.getLsbD_rotateLeft]
  have ha := Nat.mod_lt a (show 28 > 0 by omega)
  generalize a % 28 = a' at *
  by_cases h : j < a' <;>
    simp only [h, hj, decide_true, decide_false, cond_true, cond_false, Bool.true_and] <;> congr 1 <;> omega

theorem getLsbD_rotr28 (x : KeyHalf) (a j : Nat) (hj : j < 28) :
    (rotr28 x a).getLsbD j = x.getLsbD ((j + a % 28) % 28) := by
  simp only [rotr28, BitVec.getLsbD_rotateRight]
  have ha := Nat.mod_lt a (show 28 > 0 by omega)
  generalize a % 28 = a' at *
  by_cases h : j < 28 - a' <;>
    simp only [h, hj, decide_true, decide_false, cond_true, cond_false, Bool.true_and] <;> congr 1 <;> omega

/-- Two left rotations are one, by the sum of the amounts. -/
theorem rotl28_rotl28 (x : KeyHalf) (a b : Nat) : rotl28 (rotl28 x a) b = rotl28 x (a + b) := by
  apply BitVec.eq_of_getLsbD_eq
  intro j hj
  rw [getLsbD_rotl28 _ _ _ hj, getLsbD_rotl28 _ _ _ (Nat.mod_lt _ (by omega)), getLsbD_rotl28 _ _ _ hj]
  congr 1; omega

/-- A right rotation is the left rotation by the rest of the width. -/
theorem rotr28_eq_rotl28 (x : KeyHalf) (a : Nat) (h : a ≤ 28) : rotr28 x a = rotl28 x (28 - a) := by
  apply BitVec.eq_of_getLsbD_eq
  intro j hj
  rw [getLsbD_rotl28 _ _ _ hj, getLsbD_rotr28 _ _ _ hj]
  congr 1; omega

@[simp] theorem rotl28_zero (x : KeyHalf) : rotl28 x 0 = x := by
  apply BitVec.eq_of_getLsbD_eq; intro j hj; simp [rotl28, hj]
@[simp] theorem rotr28_zero (x : KeyHalf) : rotr28 x 0 = x := by
  apply BitVec.eq_of_getLsbD_eq; intro j hj; simp [rotr28, hj]

@[simp] theorem KS_length (k : Key) : (KS k).length = 16 := by simp [KS]

theorem KS_getElem (k : Key) (j : Nat) (h : j < (KS k).length) : (KS k)[j] = subkey k (j + 1) := by simp [KS]

end Sys2Proof.Machine
end

