-- ==== Sys2Proof/Laws/PerInstr.lean ====
section
/-! SUPPORT. Statements for all commands, one lemma a constructor. Family `RowMatch`: the encoding of a command selects its
own row of the opcode table and no other (30_encoding.md R62). -/

namespace Sys2Proof.Laws.RowMatch

/-- The rows of the table that the command's IN vector selects are its own row alone. -/
def Statement (i : Instr) : Prop :=
  (commandRows.filter (·.selectedBy (encode i))).map (·.mnemonic) = [i.mnemonic]

theorem rst (sta dir : BitVec 1) (key : Key) (dat : Block) : Statement (.rst sta dir key dat) := by
  have h : ∀ a d : BitVec 1,
      (commandRows.filter (·.selectedBy (vectorOf (1#1 ++ a ++ d) 0#64 0#64))).map (·.mnemonic) = ["RST"] := by
    decide +kernel
  unfold Statement; rw [encode_rst, rows_of_vectorOf]; exact h sta dir

theorem enc (key : Key) (dat : Block) : Statement (.enc key dat) := by
  unfold Statement; rw [encode_enc, rows_of_vectorOf]; simp only [Instr.mnemonic]; decide +kernel

theorem dec (key : Key) (dat : Block) : Statement (.dec key dat) := by
  unfold Statement; rw [encode_dec, rows_of_vectorOf]; simp only [Instr.mnemonic]; decide +kernel

theorem nop (dir : BitVec 1) (key : Key) (dat : Block) : Statement (.nop dir key dat) := by
  have h : ∀ d : BitVec 1,
      (commandRows.filter (·.selectedBy (vectorOf (0b00#2 ++ d) 0#64 0#64))).map (·.mnemonic) = ["NOP"] := by
    decide +kernel
  unfold Statement; rw [encode_nop, rows_of_vectorOf]; exact h dir

end Sys2Proof.Laws.RowMatch
end

