-- ==== Sys2Proof/Laws/Runs.lean ====
section
/-! SUPPORT. Runs of edges: how `steps` unfolds at either end, which vector a later edge samples, and what
each command makes of a history. -/

namespace Sys2Proof.Machine

@[simp] theorem steps_zero (s : State) : steps 0 s = .next s := rfl

theorem steps_succ {s t : State} (h : step s = .next t) (n : Nat) : steps (n + 1) s = steps n t := by
  simp [steps, h]

/-- One more edge at the end of a run. -/
theorem steps_snoc {n : Nat} {s t u : State} (h : steps n s = .next t) (h' : step t = .next u) :
    steps (n + 1) s = .next u := by
  induction n generalizing s with
  | zero => rw [steps_zero, Host.Outcome.next.injEq] at h; subst h; rw [steps_succ h', steps_zero]
  | succ n ih =>
    cases hv : step s with
    | next v => rw [steps_succ hv] at h ⊢; exact ih h
    | fault r => exact nomatch r
    | refused r => simp [steps, hv] at h

/-- After n edges the host's vector for edge j is what it was for edge n + j. -/
theorem steps_inputAt {n : Nat} {s t : State} (h : steps n s = .next t) (j : Nat) :
    t.inputAt j = s.inputAt (n + j) := by
  induction n generalizing s with
  | zero => rw [steps_zero, Host.Outcome.next.injEq] at h; subst h; rw [Nat.zero_add]
  | succ n ih =>
    cases hv : step s with
    | next v =>
      rw [steps_succ hv] at h
      rw [ih h, step_inputAt hv, show n + j + 1 = n + 1 + j by omega]
    | fault r => exact nomatch r
    | refused r => simp [steps, hv] at h

@[simp] theorem after_rst (h : History) (a d : BitVec 1) (k : Key) (b : Block) :
    h.after (.rst a d k b) = History.cleared := by
  unfold History.after; cases h.current <;> rfl

/-- With no operation in progress a request begins one. -/
theorem after_request {h : History} (hc : h.current = none) (d : Direction) (k : Key) (b : Block) :
    h.after (requestOf d k b) = { h with current := some ⟨d, k, b, 0⟩ } := by
  unfold History.after; rw [hc]; cases d <;> rfl

/-- With no operation in progress IDLE changes nothing. -/
theorem after_idle {h : History} (hc : h.current = none) (d : BitVec 1) (k : Key) (b : Block) :
    h.after (.nop d k b) = h := by
  unfold History.after; rw [hc]

/-- With an operation in progress every command but RESET is dropped, and one more round is done. -/
theorem after_running {h : History} {o : Operation} (hc : h.current = some o) {i : Instr}
    (hi : ∀ a d k b, i ≠ .rst a d k b) :
    h.after i = if o.rounds + 1 = Config.rounds then ⟨none, resultOf o.dir o.key o.block⟩
      else { h with current := some { o with rounds := o.rounds + 1 } } := by
  unfold History.after; rw [hc]
  cases i with
  | rst a d k b => exact absurd rfl (hi a d k b)
  | enc k b => rfl
  | dec k b => rfl
  | nop d k b => rfl

/-- What a history says concerns the registers alone: the two host fields may be anything. -/
theorem consistent_congr_host {h : History} {s : State} (hs : Consistent h s) (vs : List InVec) (n : Nat) :
    Consistent h { s with inputs := vs, draw := n } :=
  ⟨fun o ho => let w := hs.running o ho; ⟨w.busy, w.done, w.dir, w.rnd, w.halves, w.keyC, w.keyD⟩, hs.idle, hs.result⟩

end Sys2Proof.Machine
end

