-- ==== Sys2Proof/Tests/Slice0.lean ====
section
/-! SUPPORT. Tests. Every expected value is one that spec/95_test_vectors.md or a rule's own example gives; none comes from the
model. Then one witness for the hypotheses of each statement that has some. -/

namespace Sys2Proof.Tests
open Sys2Proof Sys2Proof.Machine

-- One theorem at a time: checked in parallel, these ask for more memory than the check allows.
set_option Elab.async false

/-! ## Syntax, well-formedness, decoding -/

/-- 30_encoding.md R66: nothing is ill formed. The notation's own check (R67) refuses a RST line with an ignored field that is
not 0, one field at a time. -/
theorem test_canonical_refuses_rst :
    Instr.canonical (.rst 1#1 0#1 0#64 0#64) = false ∧ Instr.canonical (.rst 0#1 1#1 0#64 0#64) = false ∧
    Instr.canonical (.rst 0#1 0#1 1#64 0#64) = false ∧ Instr.canonical (.rst 0#1 0#1 0#64 1#64) = false ∧
    Instr.wellFormed (.rst 1#1 1#1 1#64 1#64) = true := by decide

theorem test_canonical_refuses_nop :
    Instr.canonical (.nop 1#1 0#64 0#64) = false ∧ Instr.canonical (.nop 0#1 1#64 0#64) = false ∧
    Instr.canonical (.nop 0#1 0#64 1#64) = false ∧ Instr.canonical (.nop 0#1 0#64 0#64) = true := by decide

/-- V1's IN vector: RST with STA, `0x6_F..F_F..F`. -/
theorem test_decode_rst : decode 0x6FFFFFFFFFFFFFFFFFFFFFFFFFFFFFFFF#131 =
    .rst 1#1 0#1 0xFFFFFFFFFFFFFFFF#64 0xFFFFFFFFFFFFFFFF#64 := by decide +kernel

/-- V3's IN vector. -/
theorem test_decode_enc : decode 0x2133457799BBCDFF10123456789ABCDEF#131 =
    .enc 0x133457799BBCDFF1#64 0x0123456789ABCDEF#64 := by decide +kernel

/-- V7's IN vector. -/
theorem test_decode_dec : decode 0x3133457799BBCDFF185E813540F0AB405#131 =
    .dec 0x133457799BBCDFF1#64 0x85E813540F0AB405#64 := by decide +kernel

/-- V10's IN vector, and the plain NOP of V2. -/
theorem test_decode_nop : decode 0x1FFFFFFFFFFFFFFFFFFFFFFFFFFFFFFFF#131 =
    .nop 1#1 0xFFFFFFFFFFFFFFFF#64 0xFFFFFFFFFFFFFFFF#64 ∧ decode 0#131 = .nop 0#1 0#64 0#64 := by decide +kernel

/-- 30_encoding.md R67: the words of the four lines. -/
theorem test_encode_lines :
    encode lineRST = 0x400000000000000000000000000000000#131 ∧ encode lineNOP = 0#131 ∧
    encode (lineENC 0x0123456789ABCDEF#64 0#64) = 0x20123456789ABCDEF0000000000000000#131 ∧
    encode (lineDEC 0x133457799BBCDFF1#64 0x85E813540F0AB405#64) = 0x3133457799BBCDFF185E813540F0AB405#131 := by
  decide +kernel

/-- Bit 131 is always 0 (30_encoding.md R60). -/
theorem test_decode_rejects_bit131 :
    decodeNumber (2 ^ 131) = .error .bitAboveVector ∧ decodeTableWord 136 (2 ^ 131) = none ∧
    decodeBytes [0x02#8] = .error .wrongLength ∧
    decodeTableWord 136 (2 ^ 129) = some (.enc 0#64 0#64) := by decide +kernel

/-! ## Tables and functions (95_test_vectors.md sections 2.1 to 2.5) -/

theorem test_data_permutations :
    IP 0x0123456789ABCDEF#64 = 0xCC00CCFFF0AAF0AA#64 ∧ FP 0x0123456789ABCDEF#64 = 0xFF330FAA00330FAA#64 ∧
    IP 0x4000000000000000#64 = 0x0100000000000000#64 ∧ FP 0x0000000000000040#64 = 0x0000000000000200#64 := by
  decide +kernel

theorem test_round_permutations :
    E 0x12345678#32 = 0x0A41A82AC3F0#48 ∧ E 0x0000000F#32 = 0x80000000005E#48 ∧
    P 0x12345678#32 = 0x6E34140E#32 ∧ P 0xF0000000#32 = 0x00808202#32 := by decide +kernel

theorem test_key_permutations :
    PC1 0x133457799BBCDFF1#64 = 0xF0CCAAF556678F#56 ∧ PC1 0x0123456789ABCDEF#64 = 0xF0CCAA0AACCF00#56 ∧
    PC2 0x80000000000000#56 = 0x080000000000#48 ∧ PC2 0x00040000000000#56 = 0x800000000000#48 := by decide +kernel

/-- Rows 2A and 15 of the S-box table of section 2.1. -/
theorem test_sboxes :
    ((List.range 8).map fun j => (Sbox (j + 1) 0x2A#6).toNat) = [6, 4, 15, 11, 13, 8, 3, 12] ∧
    ((List.range 8).map fun j => (Sbox (j + 1) 0x15#6).toNat) = [12, 1, 5, 2, 15, 13, 5, 6] := by decide +kernel

theorem test_rotations :
    rotl28 0x8000001#28 1 = 0x0000003#28 ∧ rotl28 0xC000000#28 2 = 0x0000003#28 ∧
    rotr28 0x0000003#28 2 = 0xC000000#28 ∧ rotr28 0xE19955F#28 1 = 0xF0CCAAF#28 := by decide +kernel

/-- K_1, K_9 and K_16 of the worked key (section 2.2). -/
theorem test_subkeys :
    subkey 0x133457799BBCDFF1#64 1 = 0x1B02EFFC7072#48 ∧ subkey 0x133457799BBCDFF1#64 9 = 0xE0DBEBEDE781#48 ∧
    subkey 0x133457799BBCDFF1#64 16 = 0xCB3D8B0E17F5#48 := by decide +kernel

/-- Section 2.4 and 2.5: a result of each direction that is not the other's. -/
theorem test_des_enc : DES_enc 0x133457799BBCDFF1#64 0x0123456789ABCDEF#64 = 0x85E813540F0AB405#64 := by decide +kernel

theorem test_des_dec : DES_dec 0x133457799BBCDFF1#64 0x0123456789ABCDEF#64 = 0xEE0F7C12E0B09338#64 := by decide +kernel

/-! ## One edge (95_test_vectors.md section 2.7) -/

/-- A state from the row `busy done dir rnd L R C D dout`, with the vectors the host will drive. -/
def row (busy done : Bool) (dir : Direction) (rnd : BitVec 4) (L R : Half) (C D : KeyHalf) (dout : Block)
    (inputs : List InVec) : State :=
  ⟨busy, done, dir, rnd, L, R, C, D, dout, inputs, 0⟩

/-- After that edge: the same row with the list used up. -/
def after (s : State) : State := { s with draw := 1 }

/-- Does the edge from `s` lead to `t`? -/
def leadsTo (s t : State) : Bool :=
  match step s with
  | .next u => u == t
  | .fault _ => false
  | .refused _ => false

/-- V1: RESET mid-operation, with start = 1 too. -/
theorem test_rst_mid_operation :
    leadsTo (row true false .decrypt 7 0x12345678 0x9ABCDEF0 0x1234567 0x89ABCDE 0x0123456789ABCDEF
        [0x6FFFFFFFFFFFFFFFFFFFFFFFFFFFFFFFF])
      (after (row false false .encrypt 0 0 0 0 0 0 [])) = true := by decide +kernel

/-- V3: ENCRYPT accept. -/
theorem test_enc_accept :
    leadsTo (row false false .encrypt 0 0 0 0 0 0 [0x2133457799BBCDFF10123456789ABCDEF])
      (after (row true false .encrypt 0 0xCC00CCFF 0xF0AAF0AA 0xF0CCAAF 0x556678F 0 [])) = true := by decide +kernel

/-- P2, edge e6: an ENC presented while busy is dropped, and the edge is round 5. -/
theorem test_enc_while_busy :
    leadsTo (row true false .encrypt 4 0xA25C0BF4 0x77220045 0x332ABFC 0x599E3D5 0 [0x20000000000000000_0000000000000000])
      (after (row true false .encrypt 5 0x77220045 0x8A4FA637 0xCCAAFF0 0x6678F55 0 [])) = true := by decide +kernel

/-- V7: DECRYPT accept in the cycle where done = 1. -/
theorem test_dec_accept :
    leadsTo (row false true .encrypt 0 0x43423234 0x0A4CD995 0xF0CCAAF 0x556678F 0x85E813540F0AB405
        [0x3133457799BBCDFF185E813540F0AB405])
      (after (row true false .decrypt 0 0x0A4CD995 0x43423234 0xF0CCAAF 0x556678F 0x85E813540F0AB405 [])) = true := by
  decide +kernel

/-- V4: a DEC presented while busy is dropped, and the edge is round 1 of the encryption. -/
theorem test_dec_while_busy :
    leadsTo (row true false .encrypt 0 0xCC00CCFF 0xF0AAF0AA 0xF0CCAAF 0x556678F 0 [0x3FFFFFFFFFFFFFFFFFFFFFFFFFFFFFFFF])
      (after (row true false .encrypt 1 0xF0AAF0AA 0xEF4A6544 0xE19955F 0xAACCF1E 0 [])) = true := by decide +kernel

/-- V6: IDLE clears done and keeps dout. -/
theorem test_nop_clears_done :
    leadsTo (row false true .encrypt 0 0x43423234 0x0A4CD995 0xF0CCAAF 0x556678F 0x85E813540F0AB405 [0])
      (after (row false false .encrypt 0 0x43423234 0x0A4CD995 0xF0CCAAF 0x556678F 0x85E813540F0AB405 [])) = true := by
  decide +kernel

/-- V5: round 16, the completion, under a NOP. -/
theorem test_nop_completion :
    leadsTo (row true false .encrypt 15 0xC28C960D 0x43423234 0xF866557 0xAAB33C7 0 [0])
      (after (row false true .encrypt 0 0x43423234 0x0A4CD995 0xF0CCAAF 0x556678F 0x85E813540F0AB405 [])) = true := by
  decide +kernel

/-- V9: decryption round 2, rotate right by 1. -/
theorem test_decryption_round_two :
    leadsTo (row true false .decrypt 1 0x43423234 0xC28C960D 0xF0CCAAF 0x556678F 0x85E813540F0AB405 [0])
      (after (row true false .decrypt 2 0xC28C960D 0x18C3155A 0xF866557 0xAAB33C7 0x85E813540F0AB405 [])) = true := by
  decide +kernel

/-- The host's question: the table word of ENC runs as the first command after reset. -/
theorem test_withFetchWord :
    (match step (State.reset.withFetchWord 136 0x2133457799BBCDFF10123456789ABCDEF) with
      | .next u => u.busy_r && u.L == 0xCC00CCFF#32
      | _ => false) = true := by decide +kernel

/-! ## Witnesses: states and operands that meet the hypotheses of the statements -/

def encVec : InVec := 0x2133457799BBCDFF10123456789ABCDEF#131
def decVec : InVec := 0x3133457799BBCDFF185E813540F0AB405#131
def rstVec : InVec := 0x400000000000000000000000000000000#131
def key : Key := 0x133457799BBCDFF1#64
def plain : Block := 0x0123456789ABCDEF#64
def cipher : Block := 0x85E813540F0AB405#64

/-- An idle core and a host that presents `first`, then sixteen `mid`, then `last`. -/
def idleCore (first mid last : InVec) : State := State.reset.drive (first :: (List.replicate 16 mid ++ [last]))

/-- The core after V3, V5's state before the completion, and V9's state before its edge. -/
def atRound0 (inputs : List InVec) : State :=
  row true false .encrypt 0 0xCC00CCFF 0xF0AAF0AA 0xF0CCAAF 0x556678F 0 inputs
def atRound15 (inputs : List InVec) : State :=
  row true false .encrypt 15 0xC28C960D 0x43423234 0xF866557 0xAAB33C7 0 inputs
def decAtRound1 (inputs : List InVec) : State :=
  row true false .decrypt 1 0x43423234 0xC28C960D 0xF0CCAAF 0x556678F 0x85E813540F0AB405 inputs

theorem inOperation_atRound0 (inputs : List InVec) : InOperation .encrypt key plain 0 (atRound0 inputs) :=
  ⟨rfl, rfl, rfl, rfl, by show ((0xCC00CCFF#32, 0xF0AAF0AA#32) : Half × Half) = _; decide +kernel,
    by show 0xF0CCAAF#28 = _; decide +kernel, by show 0x556678F#28 = _; decide +kernel⟩

theorem inOperation_atRound15 (inputs : List InVec) : InOperation .encrypt key plain 15 (atRound15 inputs) :=
  ⟨rfl, rfl, rfl, rfl, by show ((0xC28C960D#32, 0x43423234#32) : Half × Half) = _; decide +kernel,
    by show 0xF866557#28 = _; decide +kernel, by show 0xAAB33C7#28 = _; decide +kernel⟩

theorem inOperation_decAtRound1 (inputs : List InVec) : InOperation .decrypt key cipher 1 (decAtRound1 inputs) :=
  ⟨rfl, rfl, rfl, rfl, by show ((0x43423234#32, 0xC28C960D#32) : Half × Half) = _; decide +kernel,
    by show 0xF0CCAAF#28 = _; decide +kernel, by show 0x556678F#28 = _; decide +kernel⟩

/-- The fields of the vectors the witnesses use. -/
theorem fields_of_witness_vectors :
    fieldRST rstVec = 1#1 ∧ fieldSTA rstVec = 0#1 ∧ fieldRST encVec = 0#1 ∧ fieldSTA encVec = 1#1 ∧ fieldDIR encVec = 0#1 ∧
    fieldRST decVec = 0#1 ∧ fieldSTA decVec = 1#1 ∧ fieldDIR decVec = 1#1 ∧ fieldRST 0#131 = 0#1 ∧ fieldSTA 0#131 = 0#1 := by
  decide +kernel

theorem requests_of_witness_vectors :
    decode encVec = requestOf .encrypt key plain ∧ decode decVec = requestOf .decrypt key cipher := by decide +kernel

theorem inputAt_idleCore_mid (first mid last : InVec) {j : Nat} (h1 : 1 ≤ j) (h2 : j ≤ 16) :
    (idleCore first mid last).inputAt j = mid := by
  interval_cases j <;> rfl

theorem noReset_idleCore {first mid last : InVec} {a : Nat} (ha : 1 ≤ a) (hm : fieldRST mid = 0#1)
    (hl : fieldRST last = 0#1) : noReset (idleCore first mid last) a 17 := by
  intro j h1 h2
  obtain h | rfl : j ≤ 16 ∨ j = 17 := by omega
  · rw [inputAt_idleCore_mid _ _ _ (Nat.le_trans ha h1) h]; exact hm
  · exact hl

theorem witness_StepRunsTheSampledCommand :
    (State.reset.drive [encVec]).inputs = encVec :: [] ∧
    decodeTableWord 136 (2 ^ 130) = some (.rst 0#1 0#1 0#64 0#64) := by decide +kernel

/-- One vector for each row of the CTL table; the same four serve `EdgeDispatchOrder`, `IgnoredFieldsHaveNoEffect` and the
decoding clauses of the accept, IDLE and RESET statements. -/
theorem witness_EveryVectorSelectsOneRow :
    fieldCTL rstVec &&& 0b100#3 = 0b100#3 ∧ fieldCTL encVec = 0b010#3 ∧ fieldCTL decVec = 0b011#3 ∧
    fieldCTL 0x1FFFFFFFFFFFFFFFFFFFFFFFFFFFFFFFF#131 &&& 0b110#3 = 0b000#3 := by decide +kernel

theorem witness_OnlyImagesOutsideTheVectorAreRejected :
    (List.replicate 16 0#8).length = 16 ∧ decodeBytes (0x08#8 :: List.replicate 16 0#8) = .error .bitAboveVector ∧
    decodeBytes (0x07#8 :: List.replicate 16 0#8) = .ok (.rst 1#1 1#1 0#64 0#64) := by decide +kernel

theorem witness_IgnoredFieldsHaveNoEffect :
    (fieldRST rstVec = 1#1 ∧ fieldRST 0x7FFFFFFFFFFFFFFFFFFFFFFFFFFFFFFFF#131 = 1#1) ∧
    (fieldRST 0#131 = 0#1 ∧ fieldRST 0x1FFFFFFFFFFFFFFFFFFFFFFFFFFFFFFFF#131 = 0#1 ∧ fieldSTA 0#131 = 0#1 ∧
      fieldSTA 0x1FFFFFFFFFFFFFFFFFFFFFFFFFFFFFFFF#131 = 0#1) ∧
    ((atRound0 []).busy_r = true ∧ fieldRST encVec = fieldRST 0#131) := by decide +kernel

/-- Each branch of the dispatch is met by some state. -/
theorem witness_EdgeDispatchOrder :
    fieldRST ((atRound0 [rstVec]).inputAt 0) = 1#1 ∧
    (fieldRST ((atRound0 [encVec]).inputAt 0) = 0#1 ∧ (atRound0 [encVec]).busy_r = true) ∧
    (State.reset.busy_r = false ∧ fieldDIR ((State.reset.drive [encVec]).inputAt 0) = 0#1 ∧
      fieldDIR ((State.reset.drive [decVec]).inputAt 0) = 1#1 ∧ fieldSTA ((State.reset.drive [0#131]).inputAt 0) = 0#1) := by
  decide +kernel

theorem witness_EncryptAcceptLoadsOperands :
    State.reset.busy_r = false ∧ fieldCTL encVec = 0b010#3 ∧ (atRound0 []).busy_r = true ∧
    decode ((idleCore encVec 0 0).inputAt 0) = .enc key plain ∧ noReset (idleCore encVec 0 0) 1 15 :=
  ⟨rfl, by decide +kernel, rfl, by decide +kernel,
    fun j h1 h2 => noReset_idleCore (by omega) (by decide +kernel) (by decide +kernel) j h1 (by omega)⟩

theorem witness_DecryptAcceptLoadsOperands :
    State.reset.busy_r = false ∧ fieldCTL decVec = 0b011#3 ∧ (atRound0 []).busy_r = true ∧
    decode ((idleCore decVec 0 0).inputAt 0) = .dec key cipher ∧ noReset (idleCore decVec 0 0) 1 16 :=
  ⟨rfl, by decide +kernel, rfl, by decide +kernel,
    fun j h1 h2 => noReset_idleCore (by omega) (by decide +kernel) (by decide +kernel) j h1 (by omega)⟩

/-- Also the witness of `IdleCoreHoldsItsState`. -/
theorem witness_IdleClearsDoneAlone :
    State.reset.busy_r = false ∧ (atRound0 []).busy_r = true ∧
    ∀ j, j < 3 → fieldRST ((State.reset.drive [0, 0, 0]).inputAt j) = 0#1 ∧
      fieldSTA ((State.reset.drive [0, 0, 0]).inputAt j) = 0#1 := by decide +kernel

/-- Also the witness of `BusyCoreCommandFrame` and `CommandWhileBusyIsDropped`. -/
theorem witness_RoundEdgeRunsOneRound :
    (∀ a d k b, lineNOP ≠ .rst a d k b) ∧ (atRound0 []).busy_r = true ∧ (atRound0 []).dir = .encrypt ∧
    (decAtRound1 []).dir = .decrypt ∧ (atRound0 []).rnd.toNat ≠ 15 ∧ (atRound15 []).rnd.toNat = 15 ∧ (atRound0 []).rnd = 0#4 :=
  ⟨by intro a d k b; simp [lineNOP], rfl, rfl, rfl, by decide, rfl, rfl⟩

/-- `dout` changes at the completion edge, and the completion edge has a next edge. -/
theorem witness_CompletionWritesTheResult :
    (atRound15 []).busy_r = true ∧ (atRound15 []).rnd = 15#4 ∧
    ∃ t, exec lineNOP (atRound15 []) = .next t ∧ t.dout ≠ (atRound15 []).dout ∧ ∃ u, exec lineRST t = .next u := by
  refine ⟨rfl, rfl, roundEdge (atRound15 []), rfl, ?_, _, rfl⟩
  decide +kernel

theorem witness_ResetClearsEveryRegister :
    fieldRST rstVec = 1#1 ∧ fieldRST ((State.reset.drive [rstVec]).inputAt 0) = 1#1 ∧ lineRST.mnemonic = "RST" ∧
    exec lineRST (atRound0 []) = .next (resetRegs (atRound0 [])) :=
  ⟨by decide +kernel, by decide +kernel, rfl, rfl⟩

theorem witness_IdleCoreCommandFrame :
    State.reset.busy_r = false ∧ (∃ t, exec (.enc key plain) State.reset = .next t) ∧
    (∃ t, exec (.dec key cipher) State.reset = .next t) ∧ (∃ t, exec lineNOP State.reset = .next t) ∧
    (∃ t, exec lineRST State.reset = .next t) := ⟨rfl, ⟨_, rfl⟩, ⟨_, rfl⟩, ⟨_, rfl⟩, ⟨_, rfl⟩⟩

theorem witness_BusyCoreCommandFrame :
    (∀ a d k b, Instr.enc key plain ≠ .rst a d k b) ∧ (atRound0 []).busy_r = true ∧ (atRound0 []).rnd ≠ 15#4 ∧
    ∃ t, exec (.enc key plain) (atRound0 []) = .next t := ⟨by simp, rfl, by decide, _, rfl⟩

theorem witness_CommandWhileBusyIsDropped :
    (atRound15 []).busy_r = true ∧ fieldRST decVec = 0#1 ∧
    ∃ t, exec (decode decVec) (atRound15 []) = .next t ∧ t.busy_r = false :=
  ⟨rfl, by decide +kernel, roundEdge (atRound15 []), by rw [requests_of_witness_vectors.2]; rfl, rfl⟩

theorem witness_PriorityAtOneEdge :
    fieldRST ((atRound15 [rstVec]).inputAt 0) = 1#1 ∧
    (fieldRST ((atRound15 [0, decVec]).inputAt 0) = 0#1 ∧ (atRound15 [0, decVec]).busy_r = true ∧
      (atRound15 [0, decVec]).rnd = 15#4 ∧ decode ((atRound15 [0, decVec]).inputAt 1) = requestOf .decrypt key cipher) ∧
    ((State.reset.drive [encVec]).busy_r = false ∧
      decode ((State.reset.drive [encVec]).inputAt 0) = requestOf .encrypt key plain) ∧
    fieldSTA ((State.reset.drive [0]).inputAt 0) = 0#1 := by decide +kernel

/-- Reachable states, one idle and one busy inside the operation its history names; and an accept with sixteen edges without
RESET after it. -/
theorem witness_RoundCounterRule :
    Reachable History.cleared (resetRegs State.reset) ∧
    (∃ h t o, Reachable h t ∧ h.current = some o ∧ o = ⟨.encrypt, key, plain, 0⟩ ∧ t.busy_r = true) ∧
    (idleCore encVec 0 0).busy_r = false ∧ decode ((idleCore encVec 0 0).inputAt 0) = requestOf .encrypt key plain ∧
    noReset (idleCore encVec 0 0) 1 16 := by
  have h := Reachable.afterReset State.reset
  have hr : decode (((resetRegs State.reset).drive [encVec]).inputAt 0) = requestOf .encrypt key plain :=
    requests_of_witness_vectors.1
  have hs : step ((resetRegs State.reset).drive [encVec]) =
      .next (accept .encrypt key plain ((resetRegs State.reset).drive [encVec]).afterSample) := by
    show exec (decode encVec) _ = _
    rw [requests_of_witness_vectors.1]; rfl
  have h' := Reachable.edge _ _ _ (.drive _ _ [encVec] h) hs
  rw [hr, after_request rfl] at h'
  exact ⟨h, ⟨_, _, _, h', rfl, rfl, rfl⟩, rfl, requests_of_witness_vectors.1, fun j h1 h2 =>
    noReset_idleCore (by omega) fields_of_witness_vectors.2.2.2.2.2.2.2.2.1 fields_of_witness_vectors.2.2.2.2.2.2.2.2.1
      j h1 (by omega)⟩

/-- The branches of the flag, direction and output rules: each has a state and an edge. Serves `BusyFlagRule`, `DonePulseRule`,
`DirectionIsLatchedAtAccept` and `OutputRegisterHoldsBetweenCompletions`. -/
theorem witness_flag_rules :
    (∀ s : State, ∃ t, step s = .next t) ∧
    (fieldRST ((atRound15 [0, 0]).inputAt 0) = 0#1 ∧ (atRound15 [0, 0]).busy_r = true ∧ (atRound15 [0, 0]).rnd = 15#4) ∧
    fieldRST rstVec = fieldRST 0x7FFFFFFFFFFFFFFFFFFFFFFFFFFFFFFFF#131 ∧
    (roundEdge (atRound15 [0, 0])).done_r = true :=
  ⟨fun s => by unfold step; cases decode s.sampled <;> exact ⟨_, rfl⟩, by decide +kernel, by decide +kernel, rfl⟩

/-- Two edges of an idle core hold no RESET and no completion. -/
theorem witness_OutputRegisterHoldsBetweenCompletions :
    ∀ j u, j < 2 → steps j (resetRegs (State.reset.drive [0, 0])) = .next u →
      fieldRST (u.inputAt 0) = 0#1 ∧ ¬ (u.busy_r = true ∧ u.rnd = 15#4) := by
  have h0 : fieldRST 0#131 = 0#1 := fields_of_witness_vectors.2.2.2.2.2.2.2.2.1
  have hs : step (resetRegs (State.reset.drive [0, 0])) =
      .next (idleEdge (resetRegs (State.reset.drive [0, 0])).afterSample) := by
    show exec (decode 0#131) _ = _
    rw [decode_of_nop h0 (by decide +kernel)]; rfl
  intro j u hj h
  rw [steps_inputAt h]
  obtain rfl | rfl : j = 0 ∨ j = 1 := by omega
  · rw [steps_zero, Host.Outcome.next.injEq] at h; subst h
    exact ⟨h0, by simp⟩
  · rw [steps_succ hs, steps_zero, Host.Outcome.next.injEq] at h; subst h
    exact ⟨h0, by simp⟩

/-- Also the witness of the clauses on InOperation in `RoundUsesItsScheduledSubkey`, `OperationInvariantThroughTheRounds` and
`ResetAbandonsTheOperation`. -/
theorem witness_LeftoverRegistersAreOverwritten :
    InOperation .encrypt key plain 15 (atRound15 []) ∧
    ((row false false .encrypt 0 1 2 3 4 5 []).busy_r = false ∧ (row false true .decrypt 6 7 8 9 10 5 []).busy_r = false ∧
      (row false false .encrypt 0 1 2 3 4 5 []).dout = (row false true .decrypt 6 7 8 9 10 5 []).dout) :=
  ⟨inOperation_atRound15 [], rfl, rfl, rfl⟩

theorem witness_LeftoverRegistersAreUnobservable :
    (row false false .encrypt 0 1 2 3 4 5 [0]).out = (row false false .decrypt 6 7 8 9 10 5 [0]).out ∧
    (row false false .encrypt 0 1 2 3 4 5 [0]) ≠ (row false false .decrypt 6 7 8 9 10 5 [0]) ∧
    (∃ t, steps 1 (row false false .encrypt 0 1 2 3 4 5 [0]) = .next t) ∧
    (∃ t, steps 1 (row false false .decrypt 6 7 8 9 10 5 [0]) = .next t) := by
  have H : ∀ s : State, ∃ t, steps 1 s = .next t := fun s => by
    obtain ⟨t, ht⟩ := witness_flag_rules.1 s
    exact ⟨t, by rw [steps_succ ht, steps_zero]⟩
  exact ⟨rfl, by decide +kernel, H _, H _⟩

/-- The first and last byte, first and last bit. -/
theorem witness_BytesLieBigEndianOnThePorts :
    (0x0123456789ABCDEF#64 : BitVec 64) = ofBytes 0x01#8 0x23#8 0x45#8 0x67#8 0x89#8 0xAB#8 0xCD#8 0xEF#8 ∧
    (byteOf 0x8000000000000001#64 0).getLsbD 7 = true ∧ (byteOf 0x8000000000000001#64 7).getLsbD 0 = true := by
  decide +kernel

/-- The tables with a dropped and with a duplicated position. -/
theorem witness_PermutationTakesListedPositions :
    (tablePC1.length = 56 ∧ (∀ p ∈ tablePC1, 1 ≤ p ∧ p ≤ 64) ∧
      (∀ p ∈ tablePC1, (0#64).getLsbD (64 - p) = (1#64).getLsbD (64 - p))) ∧
    (tableE.length = 48 ∧ (∀ p ∈ tableE, 1 ≤ p ∧ p ≤ 32) ∧ tableE.getD (1 - 1) 0 = tableE.getD (47 - 1) 0) := by
  decide +kernel

theorem witness_KeyLoadSplitsPc1 : State.reset.busy_r = false := rfl

theorem witness_ParityBitsNeverMatter :
    sameButParity 0x0123456789ABCDEF#64 0x0022446688AACCEE#64 ∧ (63 < 64 ∧ 63 % 8 ≠ 0) := by
  refine ⟨?_, by decide⟩
  unfold sameButParity; decide +kernel

theorem witness_RoundUsesItsScheduledSubkey :
    InOperation .encrypt key plain 0 (atRound0 []) ∧ InOperation .encrypt key plain 15 (atRound15 []) ∧
    InOperation .decrypt key cipher 1 (decAtRound1 []) :=
  ⟨inOperation_atRound0 [], inOperation_atRound15 [], inOperation_decAtRound1 []⟩

theorem witness_WeakKeysAreInvolutions :
    (loadC 0xE0E0E0E0F1F1F1F1#64 = 0#28 ∨ loadC 0xE0E0E0E0F1F1F1F1#64 = ~~~0#28) ∧
    (loadD 0xE0E0E0E0F1F1F1F1#64 = 0#28 ∨ loadD 0xE0E0E0E0F1F1F1F1#64 = ~~~0#28) := by decide +kernel

theorem witness_RoundFunctionComposition :
    E 0xFFFFFFFF#32 ^^^ 0#48 = E 0#32 ^^^ 0xFFFFFFFFFFFF#48 := by decide +kernel

theorem witness_FeistelRoundAndOutputOrder :
    ([] : List Subkey).foldl feistelRound (splitBlock plain) = (0xCC00CCFF#32, 0xF0AAF0AA#32) := by decide +kernel

/-- Also the witness of `SameCommandSameResult` and `LatencyAndThroughput`: an accept, sixteen edges without RESET on which the
host presents another command, and a request at edge 17. -/
theorem witness_OperationDeliversTheCipherResult :
    (idleCore encVec decVec decVec).busy_r = false ∧
    decode ((idleCore encVec decVec decVec).inputAt 0) = requestOf .encrypt key plain ∧
    noReset (idleCore encVec decVec decVec) 1 17 ∧ fieldRST ((idleCore encVec decVec decVec).inputAt 17) = 0#1 ∧
    decode ((idleCore encVec decVec decVec).inputAt 17) = requestOf .decrypt key cipher :=
  ⟨rfl, requests_of_witness_vectors.1, noReset_idleCore (by omega) fields_of_witness_vectors.2.2.2.2.2.1
    fields_of_witness_vectors.2.2.2.2.2.1, fields_of_witness_vectors.2.2.2.2.2.1, requests_of_witness_vectors.2⟩

/-- Also the witness of `EveryOperationEnds`. -/
theorem witness_OperationInvariantThroughTheRounds :
    State.reset.busy_r = false ∧ (∀ a d k b, lineNOP ≠ .rst a d k b) ∧ InOperation .encrypt key plain 0 (atRound0 []) ∧
    InOperation .encrypt key plain 15 (atRound15 []) ∧ noReset (atRound15 [0]) 0 0 ∧ 15 - (atRound15 [0]).rnd.toNat = 0 :=
  ⟨rfl, by intro a d k b; simp [lineNOP], inOperation_atRound0 [], inOperation_atRound15 [],
    fun j _ h => by obtain rfl : j = 0 := by omega
                    exact fields_of_witness_vectors.2.2.2.2.2.2.2.2.1, rfl⟩

/-- Consistent states: idle, in the first round and before the last round; the last of these completes. -/
theorem witness_EveryStepKeepsConsistency :
    Consistent History.cleared State.reset ∧ Consistent ⟨some ⟨.encrypt, key, plain, 0⟩, 0⟩ (atRound0 [encVec]) ∧
    Consistent ⟨some ⟨.encrypt, key, plain, 15⟩, 0⟩ (atRound15 [0]) ∧
    (History.after ⟨some ⟨.encrypt, key, plain, 15⟩, 0⟩ lineNOP).result = DES_enc key plain ∧
    (∃ t, step (atRound0 [encVec]) = .next t) :=
  ⟨⟨nofun, fun _ => ⟨rfl, rfl⟩, rfl⟩,
    ⟨fun _ h => by cases h; exact inOperation_atRound0 [encVec], nofun, rfl⟩,
    ⟨fun _ h => by cases h; exact inOperation_atRound15 [0], nofun, rfl⟩, rfl, witness_flag_rules.1 _⟩

theorem witness_SameCommandSameResult :
    noReset (idleCore encVec 0 0) 1 16 ∧ noReset (idleCore encVec decVec decVec) 1 16 :=
  ⟨fun j h1 h2 => noReset_idleCore (by omega) (by decide +kernel) (by decide +kernel) j h1 (by omega),
    fun j h1 h2 => witness_OperationDeliversTheCipherResult.2.2.1 j h1 (by omega)⟩

theorem witness_InputsAreSampledOnlyAtAccept :
    State.reset.busy_r = false ∧ fieldRST encVec = 0#1 ∧ fieldSTA encVec = 1#1 ∧
    noReset (State.reset.drive (encVec :: (List.replicate 16 (0#131) ++ [0]))) 1 16 ∧
    noReset (State.reset.drive (encVec :: (List.replicate 16 decVec ++ [decVec]))) 1 16 ∧
    ((atRound0 []).busy_r = true ∧ fieldRST rstVec = 1#1 ∧ fieldSTA 0#131 = 0#1) :=
  ⟨rfl, by decide +kernel, by decide +kernel, witness_SameCommandSameResult.1, witness_SameCommandSameResult.2,
    rfl, by decide +kernel, by decide +kernel⟩

theorem witness_ResetAbandonsTheOperation :
    InOperation .encrypt key plain 0 (atRound0 [rstVec, 0]) ∧ fieldRST ((atRound0 [rstVec, 0]).inputAt 0) = 1#1 ∧
    fieldSTA ((atRound0 [rstVec, 0]).inputAt 1) = 0#1 ∧ fieldRST ((atRound0 [0]).inputAt 0) = 0#1 :=
  ⟨inOperation_atRound0 _, by decide +kernel, by decide +kernel, by decide +kernel⟩

/-- Also the witness of the last clause of `LatencyAndThroughput`. -/
theorem witness_ResetCoreAcceptsAtTheNextEdge :
    fieldRST ((atRound0 [rstVec, decVec]).inputAt 0) = 1#1 ∧
    decode ((atRound0 [rstVec, decVec]).inputAt 1) = requestOf .decrypt key cipher := by decide +kernel

theorem witness_StartHeldHighRepeats :
    (idleCore encVec encVec decVec).busy_r = false ∧ noReset (idleCore encVec encVec decVec) 0 17 ∧
    (∀ j, j ≤ 17 → fieldSTA ((idleCore encVec encVec decVec).inputAt j) = 1#1) ∧
    Direction.decrypt.bit = fieldDIR ((idleCore encVec encVec decVec).inputAt 17) := by
  obtain ⟨-, -, he, hs, -, hd, hsd, hdd, -, -⟩ := fields_of_witness_vectors
  refine ⟨rfl, fun j _ h => ?_, fun j h => ?_, hdd.symm⟩
  · obtain rfl | h0 : j = 0 ∨ 1 ≤ j := by omega
    · exact he
    · exact noReset_idleCore (by omega) he hd j h0 h
  · obtain rfl | rfl | h0 : j = 0 ∨ j = 17 ∨ (1 ≤ j ∧ j ≤ 16) := by omega
    · exact hs
    · exact hsd
    · rw [inputAt_idleCore_mid _ _ _ h0.1 h0.2]; exact hs

theorem witness_PseudoInstructionsGiveTheirResults : State.reset.busy_r = false := rfl

theorem witness_ResetMakesPowerOnStateKnown :
    fieldRST ((State.reset.drive [rstVec]).powerOn.inputAt 0) = 1#1 := fields_of_witness_vectors.1

theorem witness_InstancesShareNothing : [State.reset, atRound0 []][1]? = some (atRound0 []) := rfl

end Sys2Proof.Tests
end

section
/-! Table permutations read at a DES position (00_scope.md R8, R9), and the permutations that undo each other
(40_tables.md R81). -/

namespace Sys2Proof.Machine

/-- Vectors are equal when they agree at every DES position (00_scope.md R8). -/
theorem eq_of_position_eq {n : Nat} {v w : BitVec n} (h : ∀ p, 1 ≤ p → p ≤ n → position v p = position w p) :
    v = w := by
  refine BitVec.eq_of_getLsbD_eq fun j hj => ?_
  have hp := h (n - j) (by omega) (by omega)
  rwa [position, position, Nat.sub_sub_self hj.le] at hp

/-- Output position `i` of a table permutation is input position `T[i]` (00_scope.md R9). -/
theorem position_permute {n m : Nat} {T : List Nat} (hT : T.length = m) (v : BitVec n) {i : Nat} (h1 : 1 ≤ i)
    (hm : i ≤ m) : position (permute m T v) i = position v (T.getD (i - 1) 0) := by
  have hj : m - i < m := by omega
  have hi : m - 1 - (m - i) = i - 1 := by omega
  rw [position, getLsbD_permute, hT, hi]
  simp [hj]

/-- A table permutation reads the positions its table lists and no others (00_scope.md R9). -/
theorem permute_congr {n m : Nat} {T : List Nat} (hT : T.length = m) {v w : BitVec n}
    (h : ∀ p ∈ T, position v p = position w p) : permute m T v = permute m T w := by
  refine eq_of_position_eq fun i h1 hm => ?_
  rw [position_permute hT v h1 hm, position_permute hT w h1 hm]
  have hi : i - 1 < T.length := by omega
  rw [List.getD_eq_getElem T 0 hi]
  exact h _ (List.getElem_mem hi)

/-- Settles O27: each clause is what `position_permute` says of the positions concerned. -/
theorem permutationTakesListedPositions : Obligations.PermutationTakesListedPositions := by
  intro n m T v hT _
  refine ⟨fun i h1 hm => position_permute hT v h1 hm, fun v' h => permute_congr hT h, fun i j h1 hm h1' hm' he => ?_⟩
  calc position (permute m T v) i
    _ = position v (T.getD (i - 1) 0) := position_permute hT v h1 hm
    _ = position v (T.getD (j - 1) 0) := by rw [he]
    _ = position (permute m T v) j := (position_permute hT v h1' hm').symm

/-- The permutation by `S` undoes the one by `T` when `T[S[i]] = i` at every position `i`. -/
theorem permute_permute_of_inverse {n : Nat} {S T : List Nat} (hS : S.length = n) (hT : T.length = n)
    (h : ∀ i, i < n → 1 ≤ S.getD i 0 ∧ S.getD i 0 ≤ n ∧ T.getD (S.getD i 0 - 1) 0 = i + 1) (v : BitVec n) :
    permute n S (permute n T v) = v := by
  refine eq_of_position_eq fun i h1 hn => ?_
  obtain ⟨hlow, hhigh, hinv⟩ := h (i - 1) (by omega)
  rw [position_permute hS _ h1 hn, position_permute hT v hlow hhigh, hinv, Nat.sub_add_cancel h1]

/-- The entries of FP undo those of IP (40_tables.md R81). -/
@[simp] theorem FP_IP (v : BitVec 64) : FP (IP v) = v :=
  permute_permute_of_inverse (by decide) (by decide) (by decide) v

/-- The entries of IP undo those of FP (40_tables.md R81). -/
@[simp] theorem IP_FP (v : BitVec 64) : IP (FP v) = v :=
  permute_permute_of_inverse (by decide) (by decide) (by decide) v

end Sys2Proof.Machine
end

section
/-! The rotations of a key half as slices (00_scope.md R10), and the halves no rotation changes (41_key_schedule.md R101). -/

namespace Sys2Proof.Machine

/-- A left rotation by `s` puts the `s` top bits below the `t` others (00_scope.md R10). -/
theorem rotl28_eq_append (x : KeyHalf) {s t : Nat} (h : t + s = 28) :
    rotl28 x s = (x.extractLsb' 0 t ++ x.extractLsb' t s).cast h := by
  refine BitVec.eq_of_getLsbD_eq fun j hj => ?_
  rw [getLsbD_rotl28 x s j hj, BitVec.getLsbD_cast, BitVec.getLsbD_append]
  by_cases hjs : j < s
  · have hidx : (j + (28 - s % 28)) % 28 = t + j := by omega
    simp [hjs, hidx]
  · have hidx : (j + (28 - s % 28)) % 28 = j - s := by omega
    have hjt : j - s < t := by omega
    simp [hjs, hidx, hjt]

/-- A right rotation by `s` puts the `s` bottom bits above the `t` others (00_scope.md R10). -/
theorem rotr28_eq_append (x : KeyHalf) {s t : Nat} (h : s + t = 28) :
    rotr28 x s = (x.extractLsb' 0 s ++ x.extractLsb' s t).cast h := by
  have ht : 28 - s = t := by omega
  rw [rotr28_eq_rotl28 x s (by omega), ht, rotl28_eq_append x h]

@[simp] theorem rotr28_rotl28 (x : KeyHalf) (s : Nat) : rotr28 (rotl28 x s) s = x := by
  refine BitVec.eq_of_getLsbD_eq fun j hj => ?_
  rw [getLsbD_rotr28 _ _ _ hj, getLsbD_rotl28 _ _ _ (Nat.mod_lt _ (by decide))]
  congr 1; omega

@[simp] theorem rotl28_rotr28 (x : KeyHalf) (s : Nat) : rotl28 (rotr28 x s) s = x := by
  refine BitVec.eq_of_getLsbD_eq fun j hj => ?_
  rw [getLsbD_rotl28 _ _ _ hj, getLsbD_rotr28 _ _ _ (Nat.mod_lt _ (by decide))]
  congr 1; omega

/-- Settles O28: the slices are `rotl28_eq_append` and `rotr28_eq_append` at 1 and 2. -/
theorem rotationsOfAKeyHalf : Obligations.RotationsOfAKeyHalf := fun x =>
  ⟨rotl28_zero x, rotr28_zero x, rotl28_eq_append x (t := 27) rfl, rotl28_eq_append x (t := 26) rfl,
    rotr28_eq_append x (t := 27) rfl, rotr28_eq_append x (t := 26) rfl,
    fun s _ => ⟨rotr28_rotl28 x s, rotl28_rotr28 x s⟩⟩

/-- A key half whose bits are all equal is its own rotation (41_key_schedule.md R101). -/
theorem rotl28_of_uniform {x : KeyHalf} (hx : x = 0#28 ∨ x = ~~~0#28) (s : Nat) : rotl28 x s = x := by
  refine BitVec.eq_of_getLsbD_eq fun j hj => ?_
  have hidx : (j + (28 - s % 28)) % 28 < 28 := Nat.mod_lt _ (by decide)
  rw [getLsbD_rotl28 x s j hj]
  obtain rfl | rfl := hx
  · rw [BitVec.getLsbD_zero, BitVec.getLsbD_zero]
  · simp only [BitVec.getLsbD_not, BitVec.getLsbD_zero, hidx, hj]

end Sys2Proof.Machine
end

section
/-! The Feistel network undoes itself (42_round_function.md R120): run with the subkeys reversed on swapped halves, it leads
back. -/

namespace Sys2Proof.Machine

/-- A round on the swapped result of the same round gives the swapped halves back, whatever `f` is. -/
theorem feistelRound_swap_feistelRound (h : Half × Half) (K : Subkey) :
    feistelRound (feistelRound h K).swap K = h.swap := by
  rw [feistelRound, feistelRound, Prod.swap_prod_mk, BitVec.xor_assoc, BitVec.xor_self, BitVec.xor_zero]
  rfl

/-- All rounds in reverse order on the swapped result give the swapped halves back. -/
theorem foldl_reverse_swap_foldl (J : List Subkey) (h : Half × Half) :
    J.reverse.foldl feistelRound (J.foldl feistelRound h).swap = h.swap := by
  induction J generalizing h with
  | nil => rfl
  | cons K J ih =>
    rw [List.reverse_cons, List.foldl_append, List.foldl_cons (f := feistelRound) (l := J), ih]
    exact feistelRound_swap_feistelRound h K

/-- Splitting a result block finds its halves in swapped order (42_round_function.md R118). -/
@[simp] theorem splitBlock_joinHalves (h : Half × Half) : splitBlock (joinHalves h) = h.swap := by
  rw [splitBlock, joinHalves, IP_FP, field_high _ _ _ _ le_rfl, field_low _ _ _ _ le_rfl (by decide)]
  simp [Prod.swap]

/-- Joining the swapped halves of a block gives the block back (42_round_function.md R118, R119). -/
@[simp] theorem joinHalves_swap_splitBlock (b : Block) : joinHalves (splitBlock b).swap = b := by
  have hjoin : (IP b).extractLsb' 32 32 ++ (IP b).extractLsb' 0 32 = IP b := by
    rw [BitVec.extractLsb'_append_extractLsb'_eq_extractLsb' (by rfl)]
    exact BitVec.extractLsb'_eq_self
  rw [joinHalves, Prod.swap, splitBlock, hjoin, FP_IP]

/-- The cipher with the subkeys reversed inverts it, for every list of subkeys. -/
theorem DES_core_reverse_DES_core (k : Key) (b : Block) (J : List Subkey) :
    DES_core k (DES_core k b J) J.reverse = b := by
  simp only [DES_core, splitBlock_joinHalves, foldl_reverse_swap_foldl, joinHalves_swap_splitBlock]

@[simp] theorem DES_dec_DES_enc (k : Key) (b : Block) : DES_dec k (DES_enc k b) = b :=
  DES_core_reverse_DES_core k b (KS k)

@[simp] theorem DES_enc_DES_dec (k : Key) (b : Block) : DES_enc k (DES_dec k b) = b := by
  have h := DES_core_reverse_DES_core k b (KS k).reverse
  rwa [List.reverse_reverse] at h

/-! Keys with uniform halves (41_key_schedule.md R101): one subkey sixteen times, so the reversed list is the same. -/

theorem scheduleC_of_uniform {k : Key} (h : loadC k = 0#28 ∨ loadC k = ~~~0#28) (i : Nat) :
    scheduleC k i = loadC k := by
  induction i with
  | zero => rfl
  | succ i ih => rw [scheduleC, ih, rotl28_of_uniform h]

theorem scheduleD_of_uniform {k : Key} (h : loadD k = 0#28 ∨ loadD k = ~~~0#28) (i : Nat) :
    scheduleD k i = loadD k := by
  induction i with
  | zero => rfl
  | succ i ih => rw [scheduleD, ih, rotl28_of_uniform h]

section
variable {k : Key} (hC : loadC k = 0#28 ∨ loadC k = ~~~0#28) (hD : loadD k = 0#28 ∨ loadD k = ~~~0#28)
include hC hD

theorem subkey_of_uniform (i : Nat) : subkey k i = PC2 (PC1 k) := by
  rw [subkey, scheduleC_of_uniform hC, scheduleD_of_uniform hD, loadC_append_loadD]

theorem KS_reverse_of_uniform : (KS k).reverse = KS k := by
  have hrep : KS k = List.replicate 16 (PC2 (PC1 k)) := by simp [KS, subkey_of_uniform hC hD]
  rw [hrep, List.reverse_replicate]

theorem DES_dec_of_uniform (b : Block) : DES_dec k b = DES_enc k b := by
  rw [DES_dec, DES_enc, KS_reverse_of_uniform hC hD]

theorem DES_enc_DES_enc_of_uniform (b : Block) : DES_enc k (DES_enc k b) = b := by
  rw [← DES_dec_of_uniform hC hD, DES_dec_DES_enc]

end

/-- The four weak keys of 42_round_function.md R120 have uniform halves. The keys are decided one by one: with the bounded
quantifier over the list the kernel's evaluation runs out of memory. -/
theorem weakKeys_uniform :
    ∀ k ∈ [0x0101010101010101#64, 0xFEFEFEFEFEFEFEFE#64, 0xE0E0E0E0F1F1F1F1#64, 0x1F1F1F1F0E0E0E0E#64],
      (loadC k = 0#28 ∨ loadC k = ~~~0#28) ∧ (loadD k = 0#28 ∨ loadD k = ~~~0#28) := by
  rw [List.forall_mem_cons, List.forall_mem_cons, List.forall_mem_cons, List.forall_mem_singleton]
  decide +kernel

/-- Settles O39: each round undoes itself on swapped halves, so the reversed subkeys lead back by induction over the list of
subkeys; a weak key's subkeys are all equal, so its two directions are one function. -/
theorem decryptionInvertsEncryption : Obligations.DecryptionInvertsEncryption := by
  refine ⟨fun k b => ⟨DES_dec_DES_enc k b, DES_enc_DES_dec k b⟩, fun k hk b => ?_⟩
  obtain ⟨hC, hD⟩ := weakKeys_uniform k hk
  exact ⟨(DES_dec_of_uniform hC hD b).symm, DES_enc_DES_enc_of_uniform hC hD b⟩

end Sys2Proof.Machine
end

section
/-! The vector of a table word, and what a step does with it (30_encoding.md R60). -/

namespace Sys2Proof.Machine

/-- A number that decodes at all decodes as the vector it lays on the ports. -/
theorem decode_vectorOfTableWord {nbits w : Nat} {i : Instr} (h : decodeTableWord nbits w = some i) :
    decode (vectorOfTableWord nbits w) = i := by
  unfold decodeTableWord decodeNumber at h
  split at h
  · exact Option.some.inj h
  · exact nomatch h

/-- The host's first vector is the one the coming edge samples (10_state.md R20). -/
theorem inputAt_zero_of_inputs {s : State} {v : InVec} {vs : List InVec} (h : s.inputs = v :: vs) :
    s.inputAt 0 = v := by
  rw [State.inputAt, h, List.getD_cons_zero]

/-- Settles O1: `step` is sample, decode, exec by definition; `withFetchWord` puts the word's vector in the sample's place. -/
theorem stepRunsTheSampledCommand : Obligations.StepRunsTheSampledCommand := by
  refine fun s => ⟨rfl, rfl, fun v vs h => inputAt_zero_of_inputs h, fun nbits w i h => ?_⟩
  rw [step, withFetchWord_sampled, decode_vectorOfTableWord h]

end Sys2Proof.Machine
end

section
/-! The key halves and the data halves of an operation, round by round (10_state.md R33). -/

namespace Sys2Proof.Machine

/-- One key half of the encryption schedule, from its loaded value `x`: C and D follow this one recurrence
(41_key_schedule.md R104). -/
def scheduleHalf (x : KeyHalf) : Nat → KeyHalf
  | 0 => x
  | i + 1 => rotl28 (scheduleHalf x i) (SHIFT (i + 1))

theorem scheduleC_eq_scheduleHalf (k : Key) (i : Nat) : scheduleC k i = scheduleHalf (loadC k) i := by
  induction i with
  | zero => rfl
  | succ i ih => rw [scheduleC, ih, scheduleHalf]

theorem scheduleD_eq_scheduleHalf (k : Key) (i : Nat) : scheduleD k i = scheduleHalf (loadD k) i := by
  induction i with
  | zero => rfl
  | succ i ih => rw [scheduleD, ih, scheduleHalf]

/-- The sixteen left rotations add up to the whole width (41_key_schedule.md R106). -/
theorem scheduleHalf_sixteen (x : KeyHalf) : scheduleHalf x 16 = x := by
  have hfull : rotl28 x 28 = x := by rw [← rotr28_eq_rotl28 x 0 (by decide), rotr28_zero]
  simp only [scheduleHalf, rotl28_rotl28]
  exact hfull

@[simp] theorem scheduleC_sixteen (k : Key) : scheduleC k 16 = loadC k := by
  rw [scheduleC_eq_scheduleHalf, scheduleHalf_sixteen]

@[simp] theorem scheduleD_sixteen (k : Key) : scheduleD k 16 = loadD k := by
  rw [scheduleD_eq_scheduleHalf, scheduleHalf_sixteen]

/-- One key half after n rounds of an operation, from its loaded value `x` (10_state.md R33). -/
def keyHalfAfter (d : Direction) (x : KeyHalf) (n : Nat) : KeyHalf :=
  match d with
  | .encrypt => scheduleHalf x n
  | .decrypt => if n = 0 then scheduleHalf x 16 else scheduleHalf x (17 - n)

theorem keyHalfC_eq_keyHalfAfter (d : Direction) (k : Key) (n : Nat) : keyHalfC d k n = keyHalfAfter d (loadC k) n := by
  cases d <;> simp only [keyHalfC, keyHalfAfter, scheduleC_eq_scheduleHalf]

theorem keyHalfD_eq_keyHalfAfter (d : Direction) (k : Key) (n : Nat) : keyHalfD d k n = keyHalfAfter d (loadD k) n := by
  cases d <;> simp only [keyHalfD, keyHalfAfter, scheduleD_eq_scheduleHalf]

/-- An accept loads the key half that the schedule of either direction starts from. -/
theorem keyHalfAfter_zero (d : Direction) (x : KeyHalf) : keyHalfAfter d x 0 = x := by
  cases d with
  | encrypt => rfl
  | decrypt => exact scheduleHalf_sixteen x

/-- The right rotations of decryption are the left rotations of encryption in reverse order (41_key_schedule.md R106). -/
theorem RSHIFT_eq_SHIFT : ∀ n, n < 16 → n ≠ 0 → RSHIFT (n + 1) = SHIFT (17 - n) := by decide

/-- Each round moves a key half one place along the schedule of its direction (41_key_schedule.md R101, R102). -/
theorem rotateForRound_keyHalfAfter (d : Direction) (x : KeyHalf) {n : Nat} (hn : n < 16) :
    rotateForRound d (n + 1) (keyHalfAfter d x n) = keyHalfAfter d x (n + 1) := by
  cases d with
  | encrypt => rfl
  | decrypt =>
    by_cases h0 : n = 0
    · subst h0; exact rotr28_zero _
    · have hpred : 17 - n = 16 - n + 1 := by omega
      have hnext : 17 - (n + 1) = 16 - n := by omega
      calc rotateForRound .decrypt (n + 1) (keyHalfAfter .decrypt x n)
        _ = rotr28 (scheduleHalf x (17 - n)) (SHIFT (17 - n)) := by
          rw [rotateForRound, keyHalfAfter, if_neg h0, RSHIFT_eq_SHIFT n hn h0]
        _ = scheduleHalf x (16 - n) := by rw [hpred, scheduleHalf, rotr28_rotl28]
        _ = keyHalfAfter .decrypt x (n + 1) := by rw [keyHalfAfter, if_neg n.succ_ne_zero, hnext]

@[simp] theorem subkeysOf_length (d : Direction) (k : Key) : (subkeysOf d k).length = 16 := by
  cases d <;> simp [subkeysOf]

/-- The subkey of round n + 1 is PC2 of the key halves after that round (41_key_schedule.md R103). -/
theorem subkeysOf_getElem (d : Direction) (k : Key) (n : Nat) (hn : n < (subkeysOf d k).length) :
    (subkeysOf d k)[n] = PC2 (keyHalfC d k (n + 1) ++ keyHalfD d k (n + 1)) := by
  rw [subkeysOf_length] at hn
  cases d with
  | encrypt => exact KS_getElem k n _
  | decrypt =>
    have hindex : 16 - 1 - n + 1 = 17 - (n + 1) := by omega
    simp only [subkeysOf, List.getElem_reverse, KS_getElem, KS_length, hindex, subkey, keyHalfC, keyHalfD,
      if_neg n.succ_ne_zero]

/-- The Feistel recurrence (42_round_function.md R117). -/
theorem halvesAfter_succ (d : Direction) (k : Key) (b : Block) {n : Nat} (hn : n < 16) :
    halvesAfter d k b (n + 1) =
      feistelRound (halvesAfter d k b n) (PC2 (keyHalfC d k (n + 1) ++ keyHalfD d k (n + 1))) := by
  have hlen : n < (subkeysOf d k).length := by rwa [subkeysOf_length]
  rw [halvesAfter, List.take_succ_eq_append_getElem hlen, List.foldl_append, subkeysOf_getElem]
  rfl

/-- The result block joins the halves of round 16 (42_round_function.md R118, R119). -/
theorem joinHalves_halvesAfter (d : Direction) (k : Key) (b : Block) :
    joinHalves (halvesAfter d k b 16) = resultOf d k b := by
  rw [halvesAfter, List.take_of_length_le (subkeysOf_length d k).le]
  cases d <;> rfl

end Sys2Proof.Machine
end

section
/-! The operation's invariant: an accept establishes it, each round edge keeps it, and round 16 completes the operation
(10_state.md R33, 43_commands.md R131-R135). -/

namespace Sys2Proof.Machine

/-- An idle core accepts a request (43_commands.md R131, R132). -/
theorem exec_request_of_idle {s : State} (hb : s.busy_r = false) (d : Direction) (k : Key) (b : Block) :
    exec (requestOf d k b) s = .next (accept d k b s) := by
  cases d with
  | encrypt => rw [requestOf, exec_enc, unlessBusy_idle hb]
  | decrypt => rw [requestOf, exec_dec, unlessBusy_idle hb]

/-- The registers right after the completion edge of the operation (d, k, b) (10_state.md R32, R33). -/
structure Completed (d : Direction) (k : Key) (b : Block) (s : State) : Prop where
  busy : s.busy_r = false
  done : s.done_r = true
  dir : s.dir = d
  rnd : s.rnd = 0#4
  halves : (s.L, s.R) = halvesAfter d k b 16
  keyC : s.C = keyHalfC d k 16
  keyD : s.D = keyHalfD d k 16
  result : s.dout = resultOf d k b

theorem inOperation_accept (d : Direction) (k : Key) (b : Block) (s : State) : InOperation d k b 0 (accept d k b s) where
  busy := rfl
  done := rfl
  dir := rfl
  rnd := rfl
  halves := rfl
  keyC := by rw [keyHalfC_eq_keyHalfAfter, keyHalfAfter_zero, accept_C]
  keyD := by rw [keyHalfD_eq_keyHalfAfter, keyHalfAfter_zero, accept_D]

section
variable {d : Direction} {k : Key} {b : Block} {n : Nat} {s : State}

theorem InOperation.lt_sixteen (h : InOperation d k b n s) : n < 16 := by
  rw [← h.rnd]; exact s.rnd.isLt

/-- Sampling the ports changes no register. -/
theorem InOperation.afterSample (h : InOperation d k b n s) : InOperation d k b n s.afterSample :=
  ⟨h.busy, h.done, h.dir, h.rnd, h.halves, h.keyC, h.keyD⟩

theorem InOperation.nextC (h : InOperation d k b n s) : s.nextC = keyHalfC d k (n + 1) := by
  rw [State.nextC, State.roundNumber, h.dir, h.rnd, h.keyC, keyHalfC_eq_keyHalfAfter, keyHalfC_eq_keyHalfAfter,
    rotateForRound_keyHalfAfter d _ h.lt_sixteen]

theorem InOperation.nextD (h : InOperation d k b n s) : s.nextD = keyHalfD d k (n + 1) := by
  rw [State.nextD, State.roundNumber, h.dir, h.rnd, h.keyD, keyHalfD_eq_keyHalfAfter, keyHalfD_eq_keyHalfAfter,
    rotateForRound_keyHalfAfter d _ h.lt_sixteen]

/-- The subkey of the coming round comes from the key halves after it (41_key_schedule.md R103). -/
theorem InOperation.roundKey (h : InOperation d k b n s) :
    s.roundKey = PC2 (keyHalfC d k (n + 1) ++ keyHalfD d k (n + 1)) := by
  rw [State.roundKey, h.nextC, h.nextD]

theorem InOperation.nextHalves (h : InOperation d k b n s) : s.nextHalves = halvesAfter d k b (n + 1) := by
  rw [State.nextHalves, h.halves, h.roundKey, halvesAfter_succ d k b h.lt_sixteen]

/-- A round edge before round 16 keeps the invariant with one more round done. -/
theorem inOperation_roundEdge (h : InOperation d k b n s) (hn : n < 15) : InOperation d k b (n + 1) (roundEdge s) := by
  have hlast : s.lastRound = false := by
    rw [Bool.eq_false_iff, Ne, lastRound_iff, h.rnd]; omega
  refine ⟨by simp [hlast, h.busy], by simp [hlast], h.dir, ?_, h.nextHalves, h.nextC, h.nextD⟩
  rw [roundEdge_rnd, BitVec.toNat_add, h.rnd]
  exact Nat.mod_eq_of_lt (show n + 1 < 16 by omega)

/-- The round edge of round 16 completes the operation. -/
theorem completed_roundEdge (h : InOperation d k b 15 s) : Completed d k b (roundEdge s) := by
  have hlast : s.lastRound = true := (lastRound_iff s).mpr h.rnd
  have hrnd : s.rnd = 15#4 := BitVec.eq_of_toNat_eq h.rnd
  refine ⟨by simp [hlast], by simp [hlast], h.dir, by rw [roundEdge_rnd, hrnd]; rfl, h.nextHalves, h.nextC, h.nextD, ?_⟩
  rw [roundEdge_dout, if_pos hlast, h.nextHalves, joinHalves_halvesAfter]

end

/-- Settles O42: an accept loads round 0 of either schedule, a ROUND step moves halves and key halves one round on, and
round 16 of the schedules is C_16 = C_0 for encryption and C_1 for decryption. -/
theorem operationInvariantThroughTheRounds : Obligations.OperationInvariantThroughTheRounds := by
  refine ⟨fun d k b s hb => ⟨_, exec_request_of_idle hb d k b, inOperation_accept d k b s⟩,
    fun d k b n i s hi hs hn => ⟨_, exec_while_busy hi hs.busy, inOperation_roundEdge hs hn⟩,
    fun d k b i s hi hs => ?_⟩
  have hc := completed_roundEdge hs
  refine ⟨_, exec_while_busy hi hs.busy, hc.halves, ?_, ?_⟩
  · rintro rfl
    have hC : (roundEdge s).C = scheduleC k 16 := hc.keyC
    have hD : (roundEdge s).D = scheduleD k 16 := hc.keyD
    exact ⟨hC, hD, hC.trans (scheduleC_sixteen k), hD.trans (scheduleD_sixteen k)⟩
  · rintro rfl
    exact ⟨hc.keyC, hc.keyD⟩

/-- An accept overwrites every register but `dout` (10_state.md R32). -/
theorem accept_congr {s s' : State} (hdout : s.dout = s'.dout) (hinputs : s.inputs = s'.inputs) (hdraw : s.draw = s'.draw)
    (d : Direction) (k : Key) (b : Block) : accept d k b s = accept d k b s' := by
  simp only [accept, State.setFlags, hdout, hinputs, hdraw]

/-- Settles O24: the completion edge leaves what `Completed` says, and an accept reads nothing of it but `dout`. -/
theorem leftoverRegistersAreOverwritten : Obligations.LeftoverRegistersAreOverwritten := by
  refine ⟨fun d k b i s hi hs => ?_, fun d k b s s' hb hb' hdout hinputs hdraw => ?_⟩
  · have hc := completed_roundEdge hs
    exact ⟨_, exec_while_busy hi hs.busy, hc.halves, hc.keyC, hc.keyD, hc.dir, hc.rnd⟩
  · rw [exec_request_of_idle hb, exec_request_of_idle hb', accept_congr hdout hinputs hdraw]

end Sys2Proof.Machine
end

section
/-! The registers against the history of the sampled commands (10_state.md R25, R30, R33, 43_commands.md R138). -/

namespace Sys2Proof.Machine

theorem consistent_resetRegs (s : State) : Consistent History.cleared (resetRegs s) :=
  ⟨nofun, fun _ => ⟨rfl, rfl⟩, rfl⟩

/-- Settles O44: a RESET edge clears `busy_r`, `rnd` and `dout`, and so does the reset state. -/
theorem resetStatesAreConsistent : Obligations.ResetStatesAreConsistent :=
  ⟨consistent_resetRegs State.reset, consistent_resetRegs⟩

section
variable {h : History} {s : State}

/-- The history of an idle core has no operation in progress, that of a busy core has one. -/
theorem Consistent.current_eq_none (hs : Consistent h s) (hb : s.busy_r = false) : h.current = none := by
  cases hc : h.current with
  | none => rfl
  | some o => exact nomatch hb.symm.trans (hs.running o hc).busy

theorem Consistent.exists_current (hs : Consistent h s) (hb : s.busy_r = true) : ∃ o, h.current = some o := by
  cases hc : h.current with
  | none => exact nomatch hb.symm.trans (hs.idle hc).1
  | some o => exact ⟨o, rfl⟩

theorem Consistent.afterSample (hs : Consistent h s) : Consistent h s.afterSample :=
  consistent_congr_host hs s.inputs.tail (s.draw + 1)

/-- An accept begins the operation that the history then names. -/
theorem consistent_accept (hs : Consistent h s) (hb : s.busy_r = false) (d : Direction) (k : Key) (b : Block) :
    Consistent (h.after (requestOf d k b)) (accept d k b s) := by
  rw [after_request (hs.current_eq_none hb)]
  refine ⟨fun o ho => ?_, nofun, hs.result⟩
  cases ho
  exact inOperation_accept d k b s

/-- IDLE on an idle core clears `done_r` alone, of which no history speaks. -/
theorem consistent_idleEdge (hs : Consistent h s) (hb : s.busy_r = false) (d : BitVec 1) (k : Key) (b : Block) :
    Consistent (h.after (.nop d k b)) (idleEdge s) := by
  have hc := hs.current_eq_none hb
  rw [after_idle hc]
  exact ⟨fun o ho => (nomatch hc.symm.trans ho), hs.idle, hs.result⟩

/-- A ROUND step does the operation's next round, the 16th with its completion. -/
theorem consistent_roundEdge (hs : Consistent h s) (hb : s.busy_r = true) {i : Instr}
    (hi : ∀ a d k b, i ≠ .rst a d k b) : Consistent (h.after i) (roundEdge s) := by
  obtain ⟨⟨d, k, b, n⟩, hc⟩ := hs.exists_current hb
  have ho : InOperation d k b n s := hs.running _ hc
  rw [after_running hc hi]
  by_cases hlast : n = 15
  · subst hlast
    have hdone := completed_roundEdge ho
    exact ⟨nofun, fun _ => ⟨hdone.busy, hdone.rnd⟩, hdone.result⟩
  · have hn : n < 15 := by have hlt := ho.lt_sixteen; omega
    have hnext := inOperation_roundEdge ho hn
    rw [if_neg (by simp only [Config.rounds]; omega)]
    refine ⟨fun o' ho' => ?_, nofun, ?_⟩
    · cases ho'; exact hnext
    · have hnot : ¬ s.lastRound = true := by rw [lastRound_iff, ho.rnd]; exact hlast
      rw [roundEdge_dout, if_neg hnot]; exact hs.result

/-- Every command leads from a state as the history says to a state as the longer history says. -/
theorem exec_keeps_consistent {i : Instr} {t : State} (hs : Consistent h s) (he : exec i s = .next t) :
    Consistent (h.after i) t := by
  obtain ⟨a, d, k, b, rfl, rfl⟩ | ⟨hi, hb, rfl⟩ | ⟨hb, k, b, rfl, rfl⟩ | ⟨hb, k, b, rfl, rfl⟩ |
    ⟨hb, d, k, b, rfl, rfl⟩ := exec_next_cases he
  · rw [after_rst]; exact consistent_resetRegs s
  · exact consistent_roundEdge hs hb hi
  · exact consistent_accept hs hb .encrypt k b
  · exact consistent_accept hs hb .decrypt k b
  · exact consistent_idleEdge hs hb d k b

theorem step_keeps_consistent {t : State} (hs : Consistent h s) (he : step s = .next t) :
    Consistent (h.after (decode (s.inputAt 0))) t := exec_keeps_consistent hs.afterSample he

end

/-- Settles O43: RESET clears, an accept begins the history's operation, a ROUND step does its next round, IDLE keeps all
that a history speaks of. -/
theorem everyStepKeepsConsistency : Obligations.EveryStepKeepsConsistency := fun _ _ _ => step_keeps_consistent

/-- Every state reachable from reset is as its history says. -/
theorem Reachable.consistent {h : History} {s : State} (hr : Reachable h s) : Consistent h s := by
  induction hr with
  | afterReset s => exact consistent_resetRegs s
  | edge h s t _ he ih => exact step_keeps_consistent ih he
  | drive h s vs _ ih => exact consistent_congr_host ih vs s.draw

end Sys2Proof.Machine
end

section
/-! What one edge does, by the fields of the vector it samples (43_commands.md R130), and the rules of the flags, the
direction and the output register that follow (10_state.md R26-R28, R30). -/

namespace Sys2Proof.Machine

section
variable {s t : State}

theorem step_of_reset (h0 : fieldRST (s.inputAt 0) = 1#1) : step s = .next (resetRegs s.afterSample) := by
  rw [step, State.sampled, decode_of_rst h0, exec_rst]

theorem step_of_busy (h0 : fieldRST (s.inputAt 0) = 0#1) (hb : s.busy_r = true) :
    step s = .next (roundEdge s.afterSample) :=
  exec_while_busy (s := s.afterSample) (decode_ne_rst h0) hb

theorem step_of_request {d : Direction} {k : Key} {b : Block} (hb : s.busy_r = false)
    (hr : decode (s.inputAt 0) = requestOf d k b) : step s = .next (accept d k b s.afterSample) := by
  rw [step, State.sampled, hr, exec_request_of_idle (s := s.afterSample) hb]

/-- A vector with STA = 1 and RST = 0 requests the operation its other fields name (30_encoding.md R62). -/
theorem decode_eq_request {v : InVec} (h0 : fieldRST v = 0#1) (h1 : fieldSTA v = 1#1) :
    ∃ d : Direction, d.bit = fieldDIR v ∧ decode v = requestOf d (fieldKEY v) (fieldDAT v) := by
  obtain h2 | h2 := bit_eq_zero_or_one (fieldDIR v)
  · exact ⟨.encrypt, h2.symm, decode_of_enc h0 h1 h2⟩
  · exact ⟨.decrypt, h2.symm, decode_of_dec h0 h1 h2⟩

theorem step_of_start (h0 : fieldRST (s.inputAt 0) = 0#1) (hb : s.busy_r = false) (h1 : fieldSTA (s.inputAt 0) = 1#1) :
    ∃ d : Direction, d.bit = fieldDIR (s.inputAt 0) ∧
      step s = .next (accept d (fieldKEY (s.inputAt 0)) (fieldDAT (s.inputAt 0)) s.afterSample) := by
  obtain ⟨d, hd, hr⟩ := decode_eq_request h0 h1
  exact ⟨d, hd, step_of_request hb hr⟩

theorem step_of_idle (h0 : fieldRST (s.inputAt 0) = 0#1) (hb : s.busy_r = false) (h1 : fieldSTA (s.inputAt 0) = 0#1) :
    step s = .next (idleEdge s.afterSample) := by
  rw [step, State.sampled, decode_of_nop h0 h1, exec_nop, unlessBusy_idle (s := s.afterSample) hb]

/-- The step is never stuck (43_commands.md R130). -/
theorem exists_step (s : State) : ∃ t, step s = .next t := by
  unfold step
  cases decode s.sampled <;> exact ⟨_, rfl⟩

theorem eq_of_step {u : State} (h : step s = .next t) (hu : step s = .next u) : t = u :=
  Host.Outcome.next.inj (h.symm.trans hu)

theorem lastRound_iff_rnd (s : State) : s.lastRound = true ↔ s.rnd = 15#4 := beq_iff_eq

/-- `done_r` is 1 after a completion edge and after no other (10_state.md R27). -/
theorem step_done_r_iff (h : step s = .next t) :
    t.done_r = true ↔ fieldRST (s.inputAt 0) = 0#1 ∧ s.busy_r = true ∧ s.rnd = 15#4 := by
  obtain ⟨h0, rfl⟩ | ⟨h0, hb, rfl⟩ | ⟨h0, hb, -, d, -, rfl⟩ | ⟨h0, hb, -, rfl⟩ := step_next_cases h
  · simp [h0]
  · rw [roundEdge_done_r, flagsAfterRound_done, lastRound_iff_rnd, afterSample_rnd]
    simp [h0, hb]
  · simp [hb]
  · simp [hb]

/-- No edge leaves both flags 1: only completion sets `done_r`, and it clears `busy_r` (10_state.md R26, R27). -/
theorem step_flags_exclusive (h : step s = .next t) : ¬ (t.done_r = true ∧ t.busy_r = true) := by
  rintro ⟨hd, hb⟩
  obtain ⟨h0, hbusy, hrnd⟩ := (step_done_r_iff h).mp hd
  have hlast : s.afterSample.lastRound = true := (lastRound_iff_rnd _).mpr hrnd
  rw [eq_of_step h (step_of_busy h0 hbusy), roundEdge_busy_r, flagsAfterRound_busy, hlast] at hb
  exact nomatch hb

/-- An edge with no RESET and no completion keeps `dout` (10_state.md R30). -/
theorem step_keeps_dout (h : step s = .next t) (h0 : fieldRST (s.inputAt 0) = 0#1)
    (hc : ¬ (s.busy_r = true ∧ s.rnd = 15#4)) : t.dout = s.dout := by
  obtain ⟨h1, -⟩ | ⟨-, hb, rfl⟩ | ⟨-, -, -, d, -, rfl⟩ | ⟨-, -, -, rfl⟩ := step_next_cases h
  · exact absurd (h0.symm.trans h1) (by decide)
  · have hlast : ¬ s.afterSample.lastRound = true := fun hl => hc ⟨hb, (lastRound_iff_rnd _).mp hl⟩
    rw [roundEdge_dout, if_neg hlast, afterSample_dout]
  · rfl
  · rfl

end

/-- A run with no RESET and no completion keeps `dout`, however long (10_state.md R30). -/
theorem steps_keep_dout (n : Nat) (s : State)
    (h : ∀ j u, j < n → steps j s = .next u → fieldRST (u.inputAt 0) = 0#1 ∧ ¬ (u.busy_r = true ∧ u.rnd = 15#4)) :
    ∃ t, steps n s = .next t ∧ t.dout = s.dout := by
  induction n with
  | zero => exact ⟨s, rfl, rfl⟩
  | succ n ih =>
    obtain ⟨t, ht, hdout⟩ := ih fun j u hj => h j u (by omega)
    obtain ⟨u, hu⟩ := exists_step t
    obtain ⟨h0, hc⟩ := h n t (by omega) ht
    exact ⟨u, steps_snoc ht hu, (step_keeps_dout hu h0 hc).trans hdout⟩

/-- Settles O20: each edge's flags are those of its rule, and a busy core reads no field but RST. -/
theorem busyFlagRule : Obligations.BusyFlagRule := by
  refine ⟨fun s t h => ⟨fun h0 => ?_, fun h0 hb => ?_, fun h0 hb => ?_⟩, fun s v v' vs hb hv => ?_⟩
  · rw [eq_of_step h (step_of_reset h0), resetRegs_busy_r]
  · obtain h1 | h1 := bit_eq_zero_or_one (fieldSTA (s.inputAt 0))
    · rw [eq_of_step h (step_of_idle h0 hb h1)]; simp [hb, h1]
    · obtain ⟨d, -, hs⟩ := step_of_start h0 hb h1
      rw [eq_of_step h hs]; simp [h1]
  · rw [eq_of_step h (step_of_busy h0 hb), roundEdge_busy_r, flagsAfterRound_busy, ← lastRound_iff_rnd]
    simp [hb, State.lastRound]
  · obtain h0 | h0 := bit_eq_zero_or_one (fieldRST v)
    · rw [step_of_busy (s := s.drive (v :: vs)) h0 hb, step_of_busy (s := s.drive (v' :: vs)) (hv.symm.trans h0) hb]
      rfl
    · rw [step_of_reset (s := s.drive (v :: vs)) h0, step_of_reset (s := s.drive (v' :: vs)) (hv.symm.trans h0)]
      rfl

/-- Settles O21: a second `done_r` in a row would need a core that is busy while `done_r` is 1. -/
theorem donePulseRule : Obligations.DonePulseRule := by
  refine fun s t h => ⟨step_done_r_iff h, step_flags_exclusive h, fun hd u hu => Bool.eq_false_iff.mpr fun hud => ?_⟩
  obtain ⟨-, hb, -⟩ := (step_done_r_iff hu).mp hud
  exact step_flags_exclusive h ⟨hd, hb⟩

/-- Settles O22: only RESET and an accept write `dir`. -/
theorem directionIsLatchedAtAccept : Obligations.DirectionIsLatchedAtAccept := by
  refine fun s t h => ⟨fun h0 => ?_, fun h0 hb h1 => ?_, fun h0 hkeep => ?_⟩
  · rw [eq_of_step h (step_of_reset h0), resetRegs_dir]
  · obtain ⟨d, hd, hs⟩ := step_of_start h0 hb h1
    rw [eq_of_step h hs, accept_dir, hd]
  · cases hb : s.busy_r with
    | true => rw [eq_of_step h (step_of_busy h0 hb), roundEdge_dir, afterSample_dir]
    | false =>
      have h1 := hkeep.resolve_left (by simp [hb])
      rw [eq_of_step h (step_of_idle h0 hb h1), idleEdge_dir, afterSample_dir]

/-- Settles O23: RESET writes 0, completion the joined halves, and a run of other edges keeps `dout` by induction on its
length. -/
theorem outputRegisterHoldsBetweenCompletions : Obligations.OutputRegisterHoldsBetweenCompletions := by
  refine ⟨fun s t h h0 => ?_, fun s t h h0 hb hrnd => ?_, steps_keep_dout, fun n s => steps_keep_dout n (resetRegs s)⟩
  · rw [eq_of_step h (step_of_reset h0)]; rfl
  · have hlast : s.afterSample.lastRound = true := (lastRound_iff_rnd _).mpr hrnd
    rw [eq_of_step h (step_of_busy h0 hb), State.data_out, roundEdge_dout, if_pos hlast, joinHalves, roundEdge_L,
      roundEdge_R]

end Sys2Proof.Machine
end

section
/-! The outputs (10_state.md R22, 30_encoding.md R61), and what two cores that show the same outputs can differ in
(10_state.md R32). -/

namespace Sys2Proof.Machine

theorem out_bit_busy (s : State) : s.out.getLsbD 65 = s.busy_r := by
  rw [State.out, BitVec.getLsbD_append, BitVec.getLsbD_append]
  simp [State.busy]

theorem out_bit_done (s : State) : s.out.getLsbD 64 = s.done_r := by
  rw [State.out, BitVec.getLsbD_append, BitVec.getLsbD_append]
  simp [State.done]

theorem out_slice_dout (s : State) : s.out.extractLsb' 0 64 = s.dout := by
  rw [State.out, field_low _ _ _ _ (by decide) (by decide), BitVec.extractLsb'_eq_self, State.data_out]

/-- Settles O18: the ports are registers by definition, and each lies at its place in OUT. -/
theorem outputsAreRegisters : Obligations.OutputsAreRegisters := fun s =>
  ⟨rfl, rfl, rfl, out_bit_busy s, out_bit_done s, out_slice_dout s, fun _ => rfl⟩

/-- Two idle cores with equal outputs and equal coming inputs: they differ in `L`, `R`, `C`, `D`, `dir` and `rnd` at most. -/
structure SameIdle (s s' : State) : Prop where
  idle : s.busy_r = false
  idle' : s'.busy_r = false
  done : s.done_r = s'.done_r
  dout : s.dout = s'.dout
  inputs : s.inputs = s'.inputs
  draw : s.draw = s'.draw

theorem out_eq_of_sameIdle {s s' : State} (h : SameIdle s s') : s.out = s'.out := by
  simp only [State.out, State.busy, State.done, State.data_out, h.idle, h.idle', h.done, h.dout]

theorem sameIdle_of_out_eq {s s' : State} (hb : s.busy_r = false) (hb' : s'.busy_r = false) (hout : s.out = s'.out)
    (hinputs : s.inputs = s'.inputs) (hdraw : s.draw = s'.draw) : SameIdle s s' where
  idle := hb
  idle' := hb'
  done := by rw [← out_bit_done s, hout, out_bit_done]
  dout := by rw [← out_slice_dout s, hout, out_slice_dout]
  inputs := hinputs
  draw := hdraw

theorem SameIdle.afterSample {s s' : State} (h : SameIdle s s') : SameIdle s.afterSample s'.afterSample :=
  ⟨h.idle, h.idle', h.done, h.dout, congrArg List.tail h.inputs, congrArg (· + 1) h.draw⟩

/-- IDLE clears `done_r` and keeps the rest (43_commands.md R133). -/
theorem sameIdle_idleEdge {s s' : State} (h : SameIdle s s') : SameIdle (idleEdge s) (idleEdge s') :=
  ⟨h.idle, h.idle', rfl, h.dout, h.inputs, h.draw⟩

/-- RESET writes every register (70_reset_and_hazards.md R170). -/
theorem resetRegs_congr {s s' : State} (hinputs : s.inputs = s'.inputs) (hdraw : s.draw = s'.draw) :
    resetRegs s = resetRegs s' := by
  simp only [resetRegs, State.setFlags, hinputs, hdraw]

/-- One edge keeps the relation, or makes the two cores equal: an accept and a RESET overwrite all they differ in. -/
theorem step_sameIdle {s s' t t' : State} (h : SameIdle s s') (hs : step s = .next t) (hs' : step s' = .next t') :
    t = t' ∨ SameIdle t t' := by
  have hin : s'.inputAt 0 = s.inputAt 0 := inputAt_congr h.inputs.symm h.draw.symm 0
  have ha := h.afterSample
  obtain h0 | h0 := bit_eq_zero_or_one (fieldRST (s.inputAt 0))
  · obtain h1 | h1 := bit_eq_zero_or_one (fieldSTA (s.inputAt 0))
    · right
      rw [eq_of_step hs (step_of_idle h0 h.idle h1),
        eq_of_step hs' (step_of_idle ((congrArg fieldRST hin).trans h0) h.idle' ((congrArg fieldSTA hin).trans h1))]
      exact sameIdle_idleEdge ha
    · left
      obtain ⟨d, -, hr⟩ := decode_eq_request h0 h1
      rw [eq_of_step hs (step_of_request h.idle hr),
        eq_of_step hs' (step_of_request h.idle' ((congrArg decode hin).trans hr)),
        accept_congr ha.dout ha.inputs ha.draw]
  · left
    rw [eq_of_step hs (step_of_reset h0), eq_of_step hs' (step_of_reset ((congrArg fieldRST hin).trans h0)),
      resetRegs_congr ha.inputs ha.draw]

theorem steps_sameIdle {n : Nat} {s s' t t' : State} (h : SameIdle s s') (hs : steps n s = .next t)
    (hs' : steps n s' = .next t') : t = t' ∨ SameIdle t t' := by
  induction n generalizing s s' with
  | zero =>
    rw [steps_zero, Host.Outcome.next.injEq] at hs hs'
    subst hs hs'
    exact .inr h
  | succ n ih =>
    obtain ⟨u, hu⟩ := exists_step s
    obtain ⟨u', hu'⟩ := exists_step s'
    rw [steps_succ hu] at hs
    rw [steps_succ hu'] at hs'
    obtain rfl | hnext := step_sameIdle h hu hu'
    · exact .inl (Host.Outcome.next.inj (hs.symm.trans hs'))
    · exact ih hnext hs hs'

/-- Settles O25: along a run the two cores stay idle with equal outputs, or have become one and the same state. -/
theorem leftoverRegistersAreUnobservable : Obligations.LeftoverRegistersAreUnobservable := by
  intro n s s' t t' hb hb' hout hinputs hdraw hs hs'
  obtain rfl | h := steps_sameIdle (sameIdle_of_out_eq hb hb' hout hinputs hdraw) hs hs'
  · rfl
  · exact out_eq_of_sameIdle h

end Sys2Proof.Machine
end

section
/-! The round counter (10_state.md R25): the rounds of the accepted operation, from its accept edge on. -/

namespace Sys2Proof.Machine

section
variable {d : Direction} {k : Key} {b : Block} {s : State} (hb : s.busy_r = false)
  (hr : decode (s.inputAt 0) = requestOf d k b)
include hb hr

/-- n edges after the accept edge without RESET, n of the operation's rounds are done. -/
theorem steps_inOperation {n : Nat} (hn : n ≤ 15) (hrst : noReset s 1 n) :
    ∃ u, steps (n + 1) s = .next u ∧ InOperation d k b n u := by
  induction n with
  | zero => exact ⟨_, steps_snoc rfl (step_of_request hb hr), inOperation_accept d k b _⟩
  | succ n ih =>
    obtain ⟨u, hu, hop⟩ := ih (by omega) fun j h1 hj => hrst j h1 (by omega)
    have h0 : fieldRST (u.inputAt 0) = 0#1 := by
      rw [steps_inputAt hu]; exact hrst (n + 1) (by omega) le_rfl
    exact ⟨_, steps_snoc hu (step_of_busy h0 hop.busy), inOperation_roundEdge hop.afterSample (by omega)⟩

/-- The sixteenth edge after the accept edge is the completion edge (70_reset_and_hazards.md R179). -/
theorem steps_completed (hrst : noReset s 1 16) : ∃ u, steps 17 s = .next u ∧ Completed d k b u := by
  obtain ⟨u, hu, hop⟩ := steps_inOperation hb hr le_rfl fun j h1 hj => hrst j h1 (by omega)
  have h0 : fieldRST (u.inputAt 0) = 0#1 := by
    rw [steps_inputAt hu]; exact hrst 16 (by decide) le_rfl
  exact ⟨_, steps_snoc hu (step_of_busy h0 hop.busy), completed_roundEdge hop.afterSample⟩

end

/-- Settles O19: the edge's own write by its rule, the count by the operation's invariant along the run, and the reachable
states by their history. -/
theorem roundCounterRule : Obligations.RoundCounterRule := by
  refine ⟨fun s t h => ⟨fun h0 => ?_, fun h0 hb => ?_, fun h0 hb h1 => ?_, fun h0 hb h1 => ?_⟩,
    fun d k b s hb hr => ⟨fun n hn hrst => ?_, fun hrst => ?_⟩, fun h s hs => ⟨fun o ho => ?_, hs.consistent.idle⟩,
    fun _ _ => rfl⟩
  · rw [eq_of_step h (step_of_reset h0), resetRegs_rnd]
  · rw [eq_of_step h (step_of_busy h0 hb), roundEdge_rnd, BitVec.toNat_add]; rfl
  · obtain ⟨d, -, hs⟩ := step_of_start h0 hb h1
    rw [eq_of_step h hs, accept_rnd]
  · rw [eq_of_step h (step_of_idle h0 hb h1), idleEdge_rnd, afterSample_rnd]
  · obtain ⟨u, hu, hop⟩ := steps_inOperation hb hr hn hrst
    exact ⟨u, hu, hop.busy, hop.rnd⟩
  · obtain ⟨u, hu, hc⟩ := steps_completed hb hr hrst
    exact ⟨u, hu, hc.busy, hc.rnd⟩
  · have hop := hs.consistent.running o ho
    exact ⟨hop.busy, hop.rnd⟩

end Sys2Proof.Machine
end

section
/-! The bytes of a block or key on the port (20_memory.md R41, R42). -/

namespace Sys2Proof.Machine

/-- Bit 7 - j of byte b, its bit j from the top, on the port (20_memory.md R41). -/
theorem getLsbD_byteOf (v : BitVec 64) {b j : Nat} (hb : b < 8) (hj : j < 8) :
    (byteOf v b).getLsbD (7 - j) = v.getLsbD (63 - 8 * b - j) := by
  have hlow : 7 - j < 8 := by omega
  have hplace : 56 - 8 * b + (7 - j) = 63 - 8 * b - j := by omega
  simp only [byteOf, BitVec.getLsbD_extractLsb', hplace, hlow, decide_true, Bool.true_and]

/-- The bits of byte b are the DES positions 8b+1 to 8b+8, the top bit first (20_memory.md R42). -/
theorem getLsbD_byteOf_eq_position (v : BitVec 64) {b j : Nat} (hb : b < 8) (hj : j < 8) :
    (byteOf v b).getLsbD (7 - j) = position v (8 * b + 1 + j) := by
  have hplace : 63 - 8 * b - j = 64 - (8 * b + 1 + j) := by omega
  rw [getLsbD_byteOf v hb hj, position, hplace]

/-- Each byte of a big-endian reading is found at its place: the appends nest to the left, so byte 7 is the lower part of the
outermost one, and the others lie in its upper part. -/
theorem map_byteOf_ofBytes (b0 b1 b2 b3 b4 b5 b6 b7 : Byte) :
    (List.range 8).map (byteOf (ofBytes b0 b1 b2 b3 b4 b5 b6 b7)) = [b0, b1, b2, b3, b4, b5, b6, b7] := by
  have hrange : List.range 8 = [0, 1, 2, 3, 4, 5, 6, 7] := rfl
  simp (disch := decide) only [hrange, List.map_cons, List.map_nil, byteOf, ofBytes, field_high, field_low,
    Nat.reduceMul, Nat.reduceSub, BitVec.extractLsb'_eq_self]

/-- The bytes of a value in order are adjacent slices, which make up the whole again. -/
@[simp] theorem ofBytes_byteOf (v : BitVec 64) :
    ofBytes (byteOf v 0) (byteOf v 1) (byteOf v 2) (byteOf v 3) (byteOf v 4) (byteOf v 5) (byteOf v 6) (byteOf v 7) = v := by
  simp only [ofBytes, byteOf]
  iterate 7 rw [BitVec.extractLsb'_append_extractLsb'_eq_extractLsb' (by rfl)]
  exact BitVec.extractLsb'_eq_self

/-- Settles O26: the reading and the slices undo each other, and a byte's bits lie where its slice begins. -/
theorem bytesLieBigEndianOnThePorts : Obligations.BytesLieBigEndianOnThePorts := by
  refine ⟨fun b0 b1 b2 b3 b4 b5 b6 b7 v hv => ?_, ofBytes_byteOf, fun v b j hb hj => ?_, by decide⟩
  · rw [hv, map_byteOf_ofBytes]
  · exact ⟨getLsbD_byteOf v hb hj, getLsbD_byteOf_eq_position v hb hj⟩

end Sys2Proof.Machine
end

section
/-! Keys that differ in parity bits alone (20_memory.md R43, 41_key_schedule.md R105): PC1 reads each position that is no
parity position once and no other, and the key enters the block through PC1 alone. -/

namespace Sys2Proof.Machine

/-- A port bit is a parity bit when its number is a multiple of 8 (20_memory.md R43). -/
theorem getLsbD_parityMask : ∀ j, j < 64 → (parityMask.getLsbD j = true ↔ j % 8 = 0) := by decide

/-- PC1 lists exactly the positions that are not the last of their byte (40_tables.md R84). -/
theorem mem_tablePC1_iff (p : Nat) : p ∈ tablePC1 ↔ (1 ≤ p ∧ p ≤ 64) ∧ p % 8 ≠ 0 := by
  have hlisted : ∀ q ∈ tablePC1, (1 ≤ q ∧ q ≤ 64) ∧ q % 8 ≠ 0 := by decide
  have hall : ∀ q, q < 65 → q % 8 ≠ 0 → q ∈ tablePC1 := by decide
  exact ⟨hlisted p, fun ⟨⟨_, hle⟩, hp⟩ => hall p (by omega) hp⟩

/-- Keys that are the same but for parity agree at every position that is no parity position. -/
theorem position_eq_of_sameButParity {k k' : Key} (h : sameButParity k k') {p : Nat} (h1 : 1 ≤ p)
    (h64 : p ≤ 64) (hp : p % 8 ≠ 0) : position k p = position k' p := by
  have hbit : parityMask.getLsbD (64 - p) = false :=
    Bool.eq_false_iff.mpr <| (getLsbD_parityMask (64 - p) (by omega)).not.mpr (by omega)
  have hlt : 64 - p < 64 := by omega
  have hk := congrArg (BitVec.getLsbD · (64 - p)) h
  simpa only [position, BitVec.getLsbD_and, BitVec.getLsbD_not, hbit, hlt, decide_true, Bool.not_false,
    Bool.and_true] using hk

section
variable {k k' : Key} (h : sameButParity k k')
include h

theorem PC1_eq_of_sameButParity : PC1 k = PC1 k' := by
  refine permute_congr (by decide) fun p hp => ?_
  obtain ⟨⟨h1, h64⟩, hpar⟩ := (mem_tablePC1_iff p).mp hp
  exact position_eq_of_sameButParity h h1 h64 hpar

theorem loadC_eq_of_sameButParity : loadC k = loadC k' := by
  rw [loadC, loadC, PC1_eq_of_sameButParity h]

theorem loadD_eq_of_sameButParity : loadD k = loadD k' := by
  rw [loadD, loadD, PC1_eq_of_sameButParity h]

theorem subkey_eq_of_sameButParity (i : Nat) : subkey k i = subkey k' i := by
  simp only [subkey, scheduleC_eq_scheduleHalf, scheduleD_eq_scheduleHalf, loadC_eq_of_sameButParity h,
    loadD_eq_of_sameButParity h]

theorem KS_eq_of_sameButParity : KS k = KS k' :=
  List.map_congr_left fun j _ => subkey_eq_of_sameButParity h (j + 1)

theorem DES_enc_eq_of_sameButParity (b : Block) : DES_enc k b = DES_enc k' b := by
  rw [DES_enc, DES_enc, KS_eq_of_sameButParity h]; rfl

theorem DES_dec_eq_of_sameButParity (b : Block) : DES_dec k b = DES_dec k' b := by
  rw [DES_dec, DES_dec, KS_eq_of_sameButParity h]; rfl

theorem accept_eq_of_sameButParity (d : Direction) (b : Block) : accept d k b = accept d k' b := by
  funext s
  rw [accept, accept, loadC_eq_of_sameButParity h, loadD_eq_of_sameButParity h]

end

/-! One bit through a table permutation. -/

/-- The vector with one bit, at DES position `q` (00_scope.md R8). -/
theorem position_twoPow {n p q : Nat} (hp : 1 ≤ p ∧ p ≤ n) (hq : 1 ≤ q ∧ q ≤ n) :
    position (BitVec.twoPow n (n - q)) p = decide (p = q) := by
  have hlt : n - q < n := by omega
  have hidx : n - q = n - p ↔ p = q := by omega
  simp only [position, BitVec.getLsbD_twoPow, hlt, hidx, decide_true, Bool.true_and]

/-- A permutation table without repeats sends the bit at its entry number `i` to output position `i`, and to no other. -/
theorem permute_twoPow {n m : Nat} {T : List Nat} (hT : T.length = m) (hnodup : T.Nodup)
    (hrange : ∀ p ∈ T, 1 ≤ p ∧ p ≤ n) {i : Nat} (hi : i < T.length) :
    permute m T (BitVec.twoPow n (n - T[i])) = BitVec.twoPow m (m - (i + 1)) := by
  refine eq_of_position_eq fun r h1 hm => ?_
  have hr : r - 1 < T.length := by omega
  have hsame : T[r - 1] = T[i] ↔ r = i + 1 := by rw [hnodup.getElem_inj_iff]; omega
  rw [position_permute hT _ h1 hm, List.getD_eq_getElem T 0 hr,
    position_twoPow (hrange _ (List.getElem_mem hr)) (hrange _ (List.getElem_mem hi)),
    position_twoPow ⟨h1, hm⟩ (by omega), decide_eq_decide]
  exact hsame

/-- A port bit that is no parity bit lies at a position PC1 lists, and changes the output bit it goes to alone
(41_key_schedule.md R105). -/
theorem PC1_xor_twoPow (k : Key) {j : Nat} (hj : j < 64) (hpar : j % 8 ≠ 0) :
    ∃ q, q < 56 ∧ PC1 (k ^^^ BitVec.twoPow 64 j) = PC1 k ^^^ BitVec.twoPow 56 q := by
  have hmem : 64 - j ∈ tablePC1 := (mem_tablePC1_iff _).mpr (by omega)
  obtain ⟨i, hi, hentry⟩ := List.getElem_of_mem hmem
  have hbit : PC1 (BitVec.twoPow 64 (64 - tablePC1[i])) = BitVec.twoPow 56 (56 - (i + 1)) :=
    permute_twoPow (by decide) (by decide) (fun p hp => ((mem_tablePC1_iff p).mp hp).1) hi
  rw [hentry, Nat.sub_sub_self hj.le] at hbit
  exact ⟨56 - (i + 1), by omega, by rw [PC1_xor, hbit]⟩

/-- The example of 20_memory.md R43. -/
theorem DES_enc_parity_example : DES_enc 0x0123456789ABCDEF#64 0#64 = 0xD5D44FF720683D0D#64 := by decide +kernel

theorem sameButParity_example : sameButParity 0x0022446688AACCEE#64 0x0123456789ABCDEF#64 := by
  unfold sameButParity; decide

/-- Settles O31: the key is read through PC1 alone, PC1 lists no parity position, and each other position once. -/
theorem parityBitsNeverMatter : Obligations.ParityBitsNeverMatter := by
  refine ⟨getLsbD_parityMask, fun k k' h => ⟨KS_eq_of_sameButParity h, fun b => ?_, fun b s => ?_, ?_⟩,
    fun k j hj hpar => PC1_xor_twoPow k hj hpar, DES_enc_parity_example, ?_⟩
  · exact ⟨DES_enc_eq_of_sameButParity h b, DES_dec_eq_of_sameButParity h b⟩
  · simp only [exec_enc, exec_dec, accept_eq_of_sameButParity h, and_self]
  · exact fun a d b s => ⟨rfl, rfl⟩
  · exact (DES_enc_eq_of_sameButParity sameButParity_example 0#64).trans DES_enc_parity_example

end Sys2Proof.Machine
end

section
/-! Decode and encode undo each other, on vectors and on their images as numbers and bytes (30_encoding.md R60, R62, R64). -/

namespace Sys2Proof

/-- CTL = RST || STA || DIR (30_encoding.md R60). -/
theorem fieldCTL_eq_append (v : InVec) : fieldCTL v = fieldRST v ++ fieldSTA v ++ fieldDIR v := by
  simp only [fieldCTL, fieldRST, fieldSTA, fieldDIR]
  iterate 2 rw [BitVec.extractLsb'_append_extractLsb'_eq_extractLsb' (by rfl)]

/-- The fields of an encoded command are its own, so the decoder takes its row and carries every field back. -/
@[simp] theorem decode_encode (i : Instr) : decode (encode i) = i := by
  cases i with
  | rst sta dir key dat =>
    have hctl : ∀ a d : BitVec 1, (1#1 ++ a ++ d).extractLsb' 2 1 = 1#1 ∧ (1#1 ++ a ++ d).extractLsb' 1 1 = a ∧
      (1#1 ++ a ++ d).extractLsb' 0 1 = d := by decide
    obtain ⟨hrst, hsta, hdir⟩ := hctl sta dir
    rw [encode_rst, decode_of_rst ((fieldRST_vectorOf ..).trans hrst)]
    simp [hsta, hdir]
  | enc key dat =>
    rw [encode_enc, decode_of_enc (fieldRST_vectorOf ..) (fieldSTA_vectorOf ..) (fieldDIR_vectorOf ..)]
    simp
  | dec key dat =>
    rw [encode_dec, decode_of_dec (fieldRST_vectorOf ..) (fieldSTA_vectorOf ..) (fieldDIR_vectorOf ..)]
    simp
  | nop dir key dat =>
    have hctl : ∀ d : BitVec 1, (0b00#2 ++ d).extractLsb' 2 1 = 0#1 ∧ (0b00#2 ++ d).extractLsb' 1 1 = 0#1 ∧
      (0b00#2 ++ d).extractLsb' 0 1 = d := by decide
    obtain ⟨hrst, hsta, hdir⟩ := hctl dir
    rw [encode_nop, decode_of_nop ((fieldRST_vectorOf ..).trans hrst) ((fieldSTA_vectorOf ..).trans hsta)]
    simp [hdir]

/-- Each row's encoder writes back the control bits by which the decoder chose the row. -/
@[simp] theorem encode_decode (v : InVec) : encode (decode v) = v := by
  have hv := eq_vectorOf v
  rw [fieldCTL_eq_append] at hv
  obtain h0 | h0 := bit_eq_zero_or_one (fieldRST v)
  · obtain h1 | h1 := bit_eq_zero_or_one (fieldSTA v)
    · rw [decode_of_nop h0 h1, encode_nop]
      rw [h0, h1] at hv
      exact hv.symm
    · obtain h2 | h2 := bit_eq_zero_or_one (fieldDIR v)
      · rw [decode_of_enc h0 h1 h2, encode_enc]
        rw [h0, h1, h2] at hv
        exact hv.symm
      · rw [decode_of_dec h0 h1 h2, encode_dec]
        rw [h0, h1, h2] at hv
        exact hv.symm
  · rw [decode_of_rst h0, encode_rst]
    rw [h0] at hv
    exact hv.symm

/-- The number of a vector is one the decoder takes (log 5). -/
@[simp] theorem decodeNumber_toNat (v : InVec) : decodeNumber v.toNat = .ok (decode v) := by
  rw [decodeNumber, if_pos v.isLt, BitVec.ofNat_toNat, BitVec.setWidth_eq]

theorem decodeTableWord_encode (i : Instr) : decodeTableWord 131 (encode i).toNat = some i := by
  rw [decodeTableWord, Nat.mod_eq_of_lt (encode i).isLt, decodeNumber_toNat, decode_encode]
  rfl

theorem numberOfBytes_append_singleton (bs : List Byte) (b : Byte) :
    numberOfBytes (bs ++ [b]) = 256 * numberOfBytes bs + b.toNat := by
  rw [numberOfBytes, List.foldl_append]
  rfl

/-- The first n of the 17 bytes spell the value without its lower 17 - n bytes: each byte appends its own 8 bits. -/
theorem numberOfBytes_map_range (x : BitVec 136) {n : Nat} (hn : n ≤ 17) :
    numberOfBytes ((List.range n).map fun j => x.extractLsb' (128 - 8 * j) 8) = x.toNat / 2 ^ (136 - 8 * n) := by
  induction n with
  | zero => exact (Nat.div_eq_of_lt x.isLt).symm
  | succ n ih =>
    have hwidth : 136 - 8 * n = 128 - 8 * n + 8 := by omega
    have hnext : 136 - 8 * (n + 1) = 128 - 8 * n := by omega
    rw [List.range_succ, List.map_append, List.map_singleton, numberOfBytes_append_singleton, ih (by omega),
      BitVec.extractLsb'_toNat, Nat.shiftRight_eq_div_pow, hwidth, hnext, Nat.pow_add, ← Nat.div_div_eq_div_mul]
    exact Nat.div_add_mod _ 256

/-- The byte image of a command spells the number of its vector (log 5). -/
theorem numberOfBytes_encodeBytes (i : Instr) : numberOfBytes (encodeBytes i) = (encode i).toNat := by
  rw [encodeBytes, numberOfBytes_map_range _ le_rfl]
  simp only [Nat.reduceMul, Nat.sub_self, Nat.pow_zero, Nat.div_one]
  exact BitVec.toNat_setWidth_of_le (by decide)

theorem decodeBytes_encodeBytes (i : Instr) : decodeBytes (encodeBytes i) = .ok i := by
  have hlength : (encodeBytes i).length = 17 := by simp [encodeBytes]
  rw [decodeBytes, if_pos hlength, numberOfBytes_encodeBytes, decodeNumber_toNat, decode_encode]

/-- Settles O2: row by row on vectors; a vector's number and bytes are read back as the vector. -/
theorem decodeAndEncodeAgree : Obligations.DecodeAndEncodeAgree :=
  ⟨decode_encode, encode_decode, decodeTableWord_encode, decodeBytes_encodeBytes⟩

theorem decode_eq_of_encode_eq {v : InVec} {i : Instr} (h : encode i = v) : decode v = i := by
  rw [← h, decode_encode]

/-- Settles O4: each written vector is the encoding of the command beside it. -/
theorem writtenVectorsDecode : Obligations.WrittenVectorsDecode :=
  ⟨decode_eq_of_encode_eq (by decide), decode_eq_of_encode_eq (by decide), decode_eq_of_encode_eq (by decide),
    decode_eq_of_encode_eq (by decide), decode_eq_of_encode_eq (by decide), decode_eq_of_encode_eq (by decide)⟩

end Sys2Proof
end

section
/-! The rows of the CTL table (30_encoding.md R62). -/

namespace Sys2Proof

theorem rowMatch_statement (i : Instr) : Laws.RowMatch.Statement i := by
  cases i with
  | rst sta dir key dat => exact Laws.RowMatch.rst sta dir key dat
  | enc key dat => exact Laws.RowMatch.enc key dat
  | dec key dat => exact Laws.RowMatch.dec key dat
  | nop dir key dat => exact Laws.RowMatch.nop dir key dat

/-- Settles O3: a vector is the encoding of its command, which selects its own row alone; the table's four patterns of CTL
are the decoder's tests of RST, STA and DIR. -/
theorem everyVectorSelectsOneRow : Obligations.EveryVectorSelectsOneRow := by
  intro v
  rw [fieldCTL_eq_append]
  have hrst : ∀ r s d : BitVec 1, (r ++ s ++ d) &&& 0b100#3 = 0b100#3 → r = 1#1 := by decide
  have henc : ∀ r s d : BitVec 1, r ++ s ++ d = 0b010#3 → r = 0#1 ∧ s = 1#1 ∧ d = 0#1 := by decide
  have hdec : ∀ r s d : BitVec 1, r ++ s ++ d = 0b011#3 → r = 0#1 ∧ s = 1#1 ∧ d = 1#1 := by decide
  have hnop : ∀ r s d : BitVec 1, (r ++ s ++ d) &&& 0b110#3 = 0b000#3 → r = 0#1 ∧ s = 0#1 := by decide
  refine ⟨?_, fun h => ?_, fun h => ?_, fun h => ?_, fun h => ?_⟩
  · have hrow := rowMatch_statement (decode v)
    rwa [Laws.RowMatch.Statement, encode_decode] at hrow
  · rw [decode_of_rst (hrst _ _ _ h), Instr.mnemonic]
  · obtain ⟨h0, h1, h2⟩ := henc _ _ _ h
    rw [decode_of_enc h0 h1 h2, Instr.mnemonic]
  · obtain ⟨h0, h1, h2⟩ := hdec _ _ _ h
    rw [decode_of_dec h0 h1 h2, Instr.mnemonic]
  · obtain ⟨h0, h1⟩ := hnop _ _ _ h
    rw [decode_of_nop h0 h1, Instr.mnemonic]

end Sys2Proof
end

section
/-! Which numbers and byte lists are no image of a vector (30_encoding.md R60, R66, log 5). -/

namespace Sys2Proof

theorem decodeNumber_eq_error_iff (w : Nat) : decodeNumber w = .error .bitAboveVector ↔ 2 ^ 131 ≤ w := by
  unfold decodeNumber
  split
  case isTrue hlt => exact ⟨nofun, fun hle => absurd hle (Nat.not_le.mpr hlt)⟩
  case isFalse hge => exact ⟨fun _ => Nat.not_lt.mp hge, fun _ => rfl⟩

/-- A list of the wrong length is the only reason for `wrongLength`: the number's own reason is another. -/
theorem decodeBytes_eq_wrongLength_iff (bs : List Byte) : decodeBytes bs = .error .wrongLength ↔ bs.length ≠ 17 := by
  unfold decodeBytes decodeNumber
  split
  case isTrue hlength => exact ⟨by split <;> nofun, fun hne => absurd hlength hne⟩
  case isFalse hlength => exact ⟨fun _ => hlength, fun _ => rfl⟩

/-- Bytes are the base-256 digits of the number they spell, the first byte the most significant. -/
theorem numberOfBytes_eq_ofDigits (bs : List Byte) :
    numberOfBytes bs = Nat.ofDigits 256 (bs.reverse.map BitVec.toNat) := by
  induction bs using List.reverseRecOn with
  | nil => rfl
  | append_singleton bs b ih =>
    rw [numberOfBytes_append_singleton, ih, List.reverse_append, List.reverse_singleton, List.singleton_append,
      List.map_cons, Nat.ofDigits_cons, Nat.add_comm]

theorem numberOfBytes_cons (b : Byte) (bs : List Byte) :
    numberOfBytes (b :: bs) = numberOfBytes bs + 256 ^ bs.length * b.toNat := by
  simp only [numberOfBytes_eq_ofDigits, List.reverse_cons, List.map_append, List.map_singleton, Nat.ofDigits_append,
    Nat.ofDigits_singleton, List.length_map, List.length_reverse]

theorem numberOfBytes_lt (bs : List Byte) : numberOfBytes bs < 256 ^ bs.length := by
  have hdigits : ∀ x ∈ bs.reverse.map BitVec.toNat, x < 256 := by
    intro x hx
    obtain ⟨b, -, rfl⟩ := List.mem_map.mp hx
    exact b.isLt
  simpa [numberOfBytes_eq_ofDigits] using Nat.ofDigits_lt_base_pow_length (by decide) hdigits

/-- The number of 17 bytes has a bit above bit 130 exactly when the first byte, whose bit 0 is bit 128, has one above bit 2. -/
theorem twoPow_le_numberOfBytes_cons_iff (b : Byte) {bs : List Byte} (hlength : bs.length = 16) :
    2 ^ 131 ≤ numberOfBytes (b :: bs) ↔ 8 ≤ b.toNat := by
  have hlt := numberOfBytes_lt bs
  rw [numberOfBytes_cons, hlength]
  rw [hlength] at hlt
  omega

/-- Settles O5: the two tests of the decoder, and the size of the number that a first byte and 16 more spell. -/
theorem onlyImagesOutsideTheVectorAreRejected : Obligations.OnlyImagesOutsideTheVectorAreRejected := by
  refine ⟨decodeNumber_eq_error_iff, decodeNumber_toNat, decodeBytes_eq_wrongLength_iff, fun b bs hbs => ?_⟩
  have hlength : (b :: bs).length = 17 := by rw [List.length_cons, hbs]
  rw [decodeBytes, if_pos hlength, decodeNumber_eq_error_iff, twoPow_le_numberOfBytes_cons_iff b hbs]

end Sys2Proof
end

section
/-! What a core does with the fields a command ignores, and with the pseudo-instructions (30_encoding.md R65, R68). -/

namespace Sys2Proof.Machine

/-- RESET does one and the same whatever its ignored fields hold (70_reset_and_hazards.md R170). -/
theorem exec_decode_of_reset {v : InVec} (h : fieldRST v = 1#1) (s : State) :
    exec (decode v) s = .next (resetRegs s) := by
  rw [decode_of_rst h, exec_rst]

/-- Settles O6: the result of RESET, of IDLE and of a busy core's ROUND step names no field of the vector. -/
theorem ignoredFieldsHaveNoEffect : Obligations.IgnoredFieldsHaveNoEffect := by
  refine fun s v v' => ⟨fun h h' => ?_, fun h h' h1 h1' => ?_, fun hb heq => ?_⟩
  · rw [exec_decode_of_reset h, exec_decode_of_reset h']
  · rw [decode_of_nop h h1, decode_of_nop h' h1', exec_nop, exec_nop]
  · obtain h | h := bit_eq_zero_or_one (fieldRST v)
    · rw [exec_while_busy (decode_ne_rst h) hb, exec_while_busy (decode_ne_rst (heq.symm.trans h)) hb]
    · rw [exec_decode_of_reset h, exec_decode_of_reset (heq.symm.trans h)]

/-- While the host still drives its list, an edge samples the list's entry. -/
theorem drive_append_inputAt (s : State) {vs rest : List InVec} {j : Nat} (hj : j < vs.length) :
    (s.drive (vs ++ rest)).inputAt j = vs[j] := by
  rw [State.inputAt, drive_inputs, List.getD_append _ _ _ _ hj, List.getD_eq_getElem _ _ hj]

/-- A request and sixteen NOP lines run the operation to its completion on a core that is idle at the first edge. -/
theorem steps_request_nops (d : Direction) (k : Key) (b : Block) {s : State} (hb : s.busy_r = false)
    (rest : List InVec) :
    ∃ t, steps 17 (s.drive ((requestOf d k b :: List.replicate 16 lineNOP).map encode ++ rest)) = .next t ∧
      Completed d k b t := by
  refine steps_completed (by rw [drive_busy_r, hb]) (decode_encode _) fun j h1 h16 => ?_
  obtain ⟨i, rfl⟩ := Nat.exists_eq_add_of_le' h1
  have hj : i + 1 < ((requestOf d k b :: List.replicate 16 lineNOP).map encode).length := by
    rw [List.length_map, List.length_cons, List.length_replicate]; omega
  have hnop : fieldRST (encode lineNOP) = 0#1 := by decide
  rw [drive_append_inputAt s hj, List.getElem_map, List.getElem_cons_succ, List.getElem_replicate, hnop]

/-- Settles O53: the expansions are the model's own; a request and sixteen NOP lines complete the operation. -/
theorem pseudoInstructionsGiveTheirResults : Obligations.PseudoInstructionsGiveTheirResults := by
  refine ⟨fun _ => rfl, rfl, rfl, fun k b => ⟨rfl, rfl, rfl, rfl⟩, fun k b s rest hb => ⟨?_, ?_⟩⟩
  · obtain ⟨t, ht, hc⟩ := steps_request_nops .encrypt k b hb rest
    exact ⟨t, ht, hc.done, hc.result⟩
  · obtain ⟨t, ht, hc⟩ := steps_request_nops .decrypt k b hb rest
    exact ⟨t, ht, hc.done, hc.result⟩

end Sys2Proof.Machine
end

section
/-! FP is the inverse of IP, in the entries of the tables and on blocks (40_tables.md R80, R81). -/

namespace Sys2Proof.Machine

/-- Each of the two tables lists at the position named by the other's entry number `i + 1` that very number
(40_tables.md R81); the lists are indexed from 0, the positions from 1. -/
theorem tableFP_tableIP_entries_inverse : ∀ i, i < 64 →
    tableFP.getD (tableIP.getD i 0 - 1) 0 = i + 1 ∧ tableIP.getD (tableFP.getD i 0 - 1) 0 = i + 1 := by decide

/-- Settles O29: the entries undo each other, read off the tables, and so do the functions, by `FP_IP` and `IP_FP`. -/
theorem finalPermutationInvertsInitial : Obligations.FinalPermutationInvertsInitial := by
  refine ⟨fun i h1 h64 => ?_, FP_IP, IP_FP⟩
  obtain ⟨j, rfl⟩ := Nat.exists_eq_add_of_le' h1
  exact tableFP_tableIP_entries_inverse j h64

end Sys2Proof.Machine
end

section
/-! The key load and the key schedule over a whole operation (41_key_schedule.md R100, R101, R103, R106). -/

namespace Sys2Proof.Machine

/-! The key load. -/

/-- Flipping every parity bit changes no other (41_key_schedule.md R100). -/
theorem sameButParity_xor_parityMask (k : Key) : sameButParity (k ^^^ parityMask) k := by
  refine BitVec.eq_of_getLsbD_eq fun j hj => ?_
  simp only [BitVec.getLsbD_and, BitVec.getLsbD_xor, BitVec.getLsbD_not]
  cases parityMask.getLsbD j <;> simp

/-- The corner cases and the example of 41_key_schedule.md R100. -/
theorem PC1_corner_cases_and_example :
    PC1 0x0101010101010101#64 = 0#56 ∧ PC1 0xFEFEFEFEFEFEFEFE#64 = 0xFFFFFFFFFFFFFF#56 ∧
    PC1 0xFFFFFFFFFFFFFFFF#64 = 0xFFFFFFFFFFFFFF#56 ∧ PC1 0x133457799BBCDFF1#64 = 0xF0CCAAF556678F#56 ∧
    loadC 0x133457799BBCDFF1#64 = 0xF0CCAAF#28 ∧ loadD 0x133457799BBCDFF1#64 = 0x556678F#28 := by decide +kernel

/-- Settles O30: an accept writes `loadC` and `loadD`, the halves of PC1 by definition; PC1 lists no parity position. -/
theorem keyLoadSplitsPc1 : Obligations.KeyLoadSplitsPc1 :=
  ⟨fun d k b s hb => ⟨accept d k b s, exec_request_of_idle hb d k b, accept_C d k b s, accept_D d k b s⟩,
    fun k => PC1_eq_of_sameButParity (sameButParity_xor_parityMask k), PC1_corner_cases_and_example⟩

/-! The subkey of each round. -/

/-- Entry n of KS(k), the first numbered 0, is K_(n+1) (41_key_schedule.md R104). -/
theorem KS_getD (k : Key) {n : Nat} (hn : n < 16) : (KS k).getD n 0#48 = subkey k (n + 1) := by
  have hlen : n < (KS k).length := by rwa [KS_length]
  rw [List.getD_eq_getElem _ _ hlen, KS_getElem]

section
variable {k : Key} {b : Block} {n : Nat} {s : State}

theorem InOperation.roundKey_encrypt (h : InOperation .encrypt k b n s) : s.roundKey = subkey k (n + 1) :=
  h.roundKey

theorem InOperation.roundKey_decrypt (h : InOperation .decrypt k b n s) : s.roundKey = subkey k (16 - n) := by
  have hplace : 17 - (n + 1) = 16 - n := by omega
  rw [h.roundKey, keyHalfC, keyHalfD, if_neg n.succ_ne_zero, if_neg n.succ_ne_zero, hplace, subkey]

end

/-- Settles O32: the round's subkey comes from the scheduled key halves, which are those of K_(n+1) or K_(16-n). -/
theorem roundUsesItsScheduledSubkey : Obligations.RoundUsesItsScheduledSubkey := by
  refine fun k b n s => ⟨fun h => ⟨?_, h.roundKey_encrypt⟩, fun h => ⟨?_, h.roundKey_decrypt⟩⟩
  · rw [KS_getD k h.lt_sixteen, h.roundKey_encrypt]
  · have hn := h.lt_sixteen
    have hplace : 15 - n + 1 = 16 - n := by omega
    rw [KS_getD k (by omega), hplace, h.roundKey_decrypt]

/-! The rotations of a whole operation. -/

/-- The rotations of the first n rounds, one after the other, lead to the key half of round n. -/
theorem foldl_rotateForRound (d : Direction) (x : KeyHalf) {n : Nat} (hn : n ≤ 16) :
    (List.range n).foldl (fun y r => rotateForRound d (r + 1) y) x = keyHalfAfter d x n := by
  induction n with
  | zero => exact (keyHalfAfter_zero d x).symm
  | succ n ih =>
    rw [List.range_succ, List.foldl_append, ih (by omega)]
    exact rotateForRound_keyHalfAfter d x hn

/-- After its round n the decryption is at place 17 - n of the encryption's schedule (41_key_schedule.md R106). -/
theorem keyHalfAfter_decrypt (x : KeyHalf) {n : Nat} (hn : 1 ≤ n) :
    keyHalfAfter .decrypt x n = scheduleHalf x (17 - n) := by
  rw [keyHalfAfter, if_neg (by omega)]

/-- Settles O33: the totals are read off the tables; one lemma over a key half gives each clause for C and for D. -/
theorem rotationTotals : Obligations.RotationTotals := by
  refine ⟨rfl, rfl, fun i h2 h16 => ?_, fun k => ⟨scheduleC_sixteen k, scheduleD_sixteen k, ?_⟩, fun k i h1 _ => ?_,
    fun k j h1 h16 => ?_⟩
  · obtain ⟨n, rfl⟩ := Nat.exists_eq_add_of_le' (Nat.le_of_succ_le h2)
    have hplace : 18 - (n + 1) = 17 - n := by omega
    rw [hplace, RSHIFT_eq_SHIFT n (by omega) (by omega)]
  · rw [subkey, scheduleC_sixteen, scheduleD_sixteen]
  · obtain ⟨n, rfl⟩ := Nat.exists_eq_add_of_le' h1
    exact ⟨rotr28_rotl28 _ _, rotr28_rotl28 _ _⟩
  · simp only [foldl_rotateForRound .decrypt _ h16, keyHalfAfter_decrypt _ h1, scheduleC_eq_scheduleHalf,
      scheduleD_eq_scheduleHalf, and_self]

/-- Settles O34: no rotation changes a uniform half, so every subkey is PC2(PC1(k)), and the reversed list is the same. -/
theorem weakKeysAreInvolutions : Obligations.WeakKeysAreInvolutions := fun _ hC hD =>
  ⟨fun i _ _ => (subkey_of_uniform hC hD i).trans (subkey_of_uniform hC hD 1).symm,
    fun b => ⟨(DES_dec_of_uniform hC hD b).symm, DES_enc_DES_enc_of_uniform hC hD b⟩⟩

end Sys2Proof.Machine
end

section
/-! The S-boxes and the S-layer (42_round_function.md R112-R114). -/

namespace Sys2Proof.Machine

/-- The 64 outputs of a box are the 4-bit values, each four times, in some order; read off the tables
(42_round_function.md R113). -/
theorem Sbox_outputs_perm : ∀ j, j < 8 →
    ((List.range 64).map fun x => Sbox (j + 1) (BitVec.ofNat 6 x)).Perm ((List.range 64).map (BitVec.ofNat 4)) := by
  decide +kernel

theorem countP_fourBitValues : ∀ o : BitVec 4,
    ((List.range 64).map (BitVec.ofNat 4)).countP (decide <| · = o) = 4 := by decide +kernel

theorem Sbox_takes_output_four_times {j : Nat} (hj : j < 8) (o : BitVec 4) :
    ((List.range 64).filter fun x => Sbox (j + 1) (BitVec.ofNat 6 x) = o).length = 4 := by
  have hcount := (Sbox_outputs_perm j hj).countP_eq (decide <| · = o)
  rw [countP_fourBitValues, List.countP_map, List.countP_eq_length_filter] at hcount
  exact hcount

/-- Settles O35: a group goes through its own box by definition; each box's outputs are a rearrangement of every 4-bit value
four times. -/
theorem substitutionIsBalanced : Obligations.SubstitutionIsBalanced := by
  refine ⟨fun X j _ _ => rfl, fun j h1 h8 o => ?_, by decide +kernel⟩
  obtain ⟨i, rfl⟩ := Nat.exists_eq_add_of_le' h1
  exact Sbox_takes_output_four_times h8 o

/-- O_j lies in bits 35-4j : 32-4j of the S-layer (42_round_function.md R114): the nibbles to its right are cut off,
then those to its left. -/
theorem Slayer_nibble (X : BitVec 48) {j : Nat} (h1 : 1 ≤ j) (h8 : j ≤ 8) :
    (Slayer X).extractLsb' (32 - 4 * j) 4 = substituted X j := by
  show (_ ++ _ ++ _ ++ _ ++ _ ++ _ ++ _ ++ _ : BitVec (4 + 4 + 4 + 4 + 4 + 4 + 4 + 4)).extractLsb' _ 4 = _
  interval_cases j
  all_goals
    simp (disch := decide) only [field_high, field_low]
    exact BitVec.extractLsb'_eq_self

/-- Settles O36: the groups lie leftmost first by definition, and the nibbles of the S-layer by `Slayer_nibble`. -/
theorem substitutionLayerLayout : Obligations.SubstitutionLayerLayout :=
  ⟨fun X _ h1 h8 => ⟨rfl, Slayer_nibble X h1 h8⟩, by decide +kernel⟩

end Sys2Proof.Machine
end

section
/-! The round function and the Feistel round (42_round_function.md R116-R118). -/

namespace Sys2Proof.Machine

/-- Only E(R) xor K reaches the S-boxes (42_round_function.md R116). -/
theorem f_eq_of_xor_eq {R R' : Half} {K K' : Subkey} (h : E R ^^^ K = E R' ^^^ K') : f R K = f R' K' := by
  rw [f, f, h]

/-- The example of 42_round_function.md R116, the round function of the worked key's round 1. -/
theorem f_example : f 0xF0AAF0AA#32 0x1B02EFFC7072#48 = 0x234AA9BB#32 := by decide +kernel

/-- Settles O37: f is its composition by definition, and equal where the mixed keys are. -/
theorem roundFunctionComposition : Obligations.RoundFunctionComposition :=
  ⟨fun _ _ => rfl, fun _ _ _ _ => f_eq_of_xor_eq, by decide +kernel, by decide +kernel, by decide +kernel, f_example⟩

/-- One more round at the end, with its swap undone by the output order (42_round_function.md R118). -/
theorem DES_core_append_singleton (k : Key) (b : Block) {J : List Subkey} {L R : Half}
    (h : J.foldl feistelRound (splitBlock b) = (L, R)) (K : Subkey) :
    DES_core k b (J ++ [K]) = FP ((L ^^^ f R K) ++ R) := by
  rw [DES_core, List.foldl_append, h]
  rfl

/-- Settles O38: the round's form is its definition, the result block joins the halves in swapped order, and the wrong order
gives another block. -/
theorem feistelRoundAndOutputOrder : Obligations.FeistelRoundAndOutputOrder := by
  refine ⟨fun L R K => rfl, ?_, fun k b J L R h => ⟨?_, DES_core_append_singleton k b h⟩, by decide +kernel⟩
  · rw [feistelRound, f_example]
    rfl
  · rw [DES_core, h, joinHalves]

end Sys2Proof.Machine
end

section
/-! Complementing the key and the block (42_round_function.md R121): the permutations, the slices and the rotations commute
with complement, and in E(R) xor K the two complements cancel. -/

namespace Sys2Proof.Machine

theorem IP_not (v : BitVec 64) : IP (~~~v) = ~~~(IP v) := permute_not 64 tableIP (by decide) (by decide) v
theorem FP_not (v : BitVec 64) : FP (~~~v) = ~~~(FP v) := permute_not 64 tableFP (by decide) (by decide) v
theorem E_not (v : BitVec 32) : E (~~~v) = ~~~(E v) := permute_not 48 tableE (by decide) (by decide) v
theorem PC1_not (v : BitVec 64) : PC1 (~~~v) = ~~~(PC1 v) := permute_not 56 tablePC1 (by decide) (by decide) v
theorem PC2_not (v : BitVec 56) : PC2 (~~~v) = ~~~(PC2 v) := permute_not 48 tablePC2 (by decide) (by decide) v

/-- A slice of a complement, also where it ends at the top bit, the case that `BitVec.extractLsb'_not_of_lt` leaves out. -/
theorem extractLsb'_not {n : Nat} (v : BitVec n) {start len : Nat} (h : start + len ≤ n) :
    (~~~v).extractLsb' start len = ~~~(v.extractLsb' start len) := by
  refine BitVec.eq_of_getLsbD_eq fun j hj => ?_
  have hlt : start + j < n := by omega
  simp [hj, hlt]

theorem rotl28_not (x : KeyHalf) (s : Nat) : rotl28 (~~~x) s = ~~~(rotl28 x s) := by
  refine BitVec.eq_of_getLsbD_eq fun j hj => ?_
  have hidx : (j + (28 - s % 28)) % 28 < 28 := Nat.mod_lt _ (by decide)
  simp only [BitVec.getLsbD_not, getLsbD_rotl28 _ s j hj, hj, hidx, decide_true, Bool.true_and]

/-! The key schedule. -/

theorem loadC_not (k : Key) : loadC (~~~k) = ~~~(loadC k) := by
  rw [loadC, PC1_not, extractLsb'_not _ (by decide), loadC]

theorem loadD_not (k : Key) : loadD (~~~k) = ~~~(loadD k) := by
  rw [loadD, PC1_not, extractLsb'_not _ (by decide), loadD]

theorem scheduleHalf_not (x : KeyHalf) (i : Nat) : scheduleHalf (~~~x) i = ~~~(scheduleHalf x i) := by
  induction i with
  | zero => rfl
  | succ i ih => rw [scheduleHalf, ih, rotl28_not, scheduleHalf]

theorem subkey_not (k : Key) (i : Nat) : subkey (~~~k) i = ~~~(subkey k i) := by
  simp only [subkey, scheduleC_eq_scheduleHalf, scheduleD_eq_scheduleHalf, loadC_not, loadD_not, scheduleHalf_not,
    ← BitVec.not_append]
  exact PC2_not _

theorem KS_not (k : Key) : KS (~~~k) = (KS k).map (~~~·) := by
  rw [KS, KS, List.map_map]
  exact List.map_congr_left fun j _ => subkey_not k (j + 1)

/-! The rounds. -/

/-- Both data halves complemented. -/
def notHalves (h : Half × Half) : Half × Half := (~~~h.1, ~~~h.2)

/-- The complements of the half and of the subkey cancel before the S-boxes. -/
theorem f_not (R : Half) (K : Subkey) : f (~~~R) (~~~K) = f R K :=
  f_eq_of_xor_eq <| by rw [E_not, ← BitVec.not_xor_left, ← BitVec.not_xor_right, BitVec.not_not]

theorem feistelRound_not (h : Half × Half) (K : Subkey) :
    feistelRound (notHalves h) (~~~K) = notHalves (feistelRound h K) := by
  simp only [feistelRound, notHalves, f_not, BitVec.not_xor_left]

theorem foldl_feistelRound_not (J : List Subkey) (h : Half × Half) :
    (J.map (~~~·)).foldl feistelRound (notHalves h) = notHalves (J.foldl feistelRound h) := by
  rw [List.foldl_map]
  exact List.foldl_hom notHalves feistelRound_not

theorem splitBlock_not (b : Block) : splitBlock (~~~b) = notHalves (splitBlock b) := by
  rw [splitBlock, IP_not, extractLsb'_not _ (by decide), extractLsb'_not _ (by decide)]
  rfl

theorem joinHalves_not (h : Half × Half) : joinHalves (notHalves h) = ~~~(joinHalves h) := by
  rw [joinHalves, notHalves, ← BitVec.not_append, FP_not, joinHalves]

theorem DES_enc_not (k : Key) (b : Block) : DES_enc (~~~k) (~~~b) = ~~~(DES_enc k b) := by
  rw [DES_enc, DES_core, KS_not, splitBlock_not, foldl_feistelRound_not, joinHalves_not]
  rfl

/-- The first example of 42_round_function.md R121. -/
theorem DES_enc_complementation_example :
    DES_enc 0x0123456789ABCDEF#64 0x0123456789ABCDEF#64 = 0x56CC09E7CFDC4CEF#64 := by decide +kernel

/-- Settles O40: the complement runs through the schedule, the rounds and the output; the second example is the first one
complemented. -/
theorem complementationProperty : Obligations.ComplementationProperty := by
  refine ⟨DES_enc_not, DES_enc_complementation_example, ?_⟩
  have hnot := DES_enc_not 0x0123456789ABCDEF#64 0x0123456789ABCDEF#64
  rw [DES_enc_complementation_example] at hnot
  exact hnot

end Sys2Proof.Machine
end

section
/-! The result of a command depends on its operands alone (42_round_function.md R122). -/

namespace Sys2Proof.Machine

/-- Settles O46: each core completes the operation with its result in `dout`, and the result names no state. -/
theorem sameCommandSameResult : Obligations.SameCommandSameResult := by
  intro d k b s s' hb hb' hr hr' hrst hrst'
  obtain ⟨u, hu, hc⟩ := steps_completed hb hr hrst
  obtain ⟨u', hu', hc'⟩ := steps_completed hb' hr' hrst'
  exact ⟨u, u', hu, hu', hc.result.trans hc'.result.symm⟩

end Sys2Proof.Machine
end

section
/-! The ROUND step before and at round 16, and its key halves in each direction (43_commands.md R134, R135). -/

namespace Sys2Proof.Machine

section
variable {s : State}

theorem nextC_of_encrypt (hd : s.dir = .encrypt) : s.nextC = rotl28 s.C (SHIFT (s.rnd.toNat + 1)) := by
  rw [State.nextC, hd]; rfl

theorem nextD_of_encrypt (hd : s.dir = .encrypt) : s.nextD = rotl28 s.D (SHIFT (s.rnd.toNat + 1)) := by
  rw [State.nextD, hd]; rfl

theorem nextC_of_decrypt (hd : s.dir = .decrypt) : s.nextC = rotr28 s.C (RSHIFT (s.rnd.toNat + 1)) := by
  rw [State.nextC, hd]; rfl

theorem nextD_of_decrypt (hd : s.dir = .decrypt) : s.nextD = rotr28 s.D (RSHIFT (s.rnd.toNat + 1)) := by
  rw [State.nextD, hd]; rfl

/-- Before round 16 a ROUND step leaves the core busy and shows nothing (43_commands.md R134). -/
theorem roundEdge_outputs_of_rnd_ne (hrnd : s.rnd ≠ 15#4) :
    (roundEdge s).done_r = false ∧ (roundEdge s).busy_r = s.busy_r ∧ (roundEdge s).dout = s.dout := by
  have hlast : s.lastRound = false := Bool.eq_false_iff.mpr fun h => hrnd ((lastRound_iff_rnd s).mp h)
  simp [hlast]

/-- The ROUND step of round 16 ends the operation and shows its result (43_commands.md R135). -/
theorem roundEdge_outputs_of_rnd_eq (hrnd : s.rnd = 15#4) :
    (roundEdge s).done_r = true ∧ (roundEdge s).busy_r = false ∧ (roundEdge s).dout = joinHalves s.nextHalves := by
  have hlast : s.lastRound = true := (lastRound_iff_rnd s).mpr hrnd
  simp [hlast]

/-- From an idle core no command leads to `done_r` = 1 (43_commands.md R135). -/
theorem exec_done_r_of_idle {i : Instr} {t : State} (hb : s.busy_r = false) (h : exec i s = .next t) :
    t.done_r = false := by
  obtain ⟨_, _, _, _, -, rfl⟩ | ⟨-, hbusy, -⟩ | ⟨-, _, _, -, rfl⟩ | ⟨-, _, _, -, rfl⟩ | ⟨-, _, _, _, -, rfl⟩ :=
    exec_next_cases h
  · rfl
  · exact nomatch hb.symm.trans hbusy
  · rfl
  · rfl
  · rfl

end

end Sys2Proof.Machine
end

section
/-! An accepted operation up to its result and one edge beyond (43_commands.md R137). -/

namespace Sys2Proof.Machine

/-- Before round 16 of an operation the round counter is not at its end (10_state.md R25). -/
theorem InOperation.rnd_ne_of_lt {d : Direction} {k : Key} {b : Block} {n : Nat} {s : State}
    (h : InOperation d k b n s) (hn : n < 15) : s.rnd ≠ 15#4 := by
  intro h15
  have hrnd := h.rnd
  rw [h15, BitVec.toNat_ofNat] at hrnd
  omega

section
variable {d : Direction} {k : Key} {b : Block} {s : State} (hb : s.busy_r = false)
  (hr : decode (s.inputAt 0) = requestOf d k b)
include hb hr

/-- Neither the accept nor any of the fifteen edges after it writes `dout`: none of them is a completion edge. -/
theorem steps_inOperation_keep_dout {n : Nat} (hn : n ≤ 15) (hrst : noReset s 1 n) :
    ∃ u, steps (n + 1) s = .next u ∧ InOperation d k b n u ∧ u.dout = s.dout := by
  have hrun (j : Nat) := steps_succ (step_of_request hb hr) j
  obtain ⟨u, hu, hdout⟩ := steps_keep_dout n (accept d k b s.afterSample) fun j v hj hv => by
    obtain ⟨w, hw, hop⟩ := steps_inOperation hb hr (n := j) (by omega) fun i h1 hi => hrst i h1 (by omega)
    obtain rfl : w = v := Host.Outcome.next.inj (hw.symm.trans ((hrun j).trans hv))
    refine ⟨by rw [steps_inputAt hw]; exact hrst (j + 1) (by omega) (by omega), fun h => ?_⟩
    exact hop.rnd_ne_of_lt (by omega) h.2
  obtain ⟨w, hw, hop⟩ := steps_inOperation hb hr hn hrst
  obtain rfl : w = u := Host.Outcome.next.inj (hw.symm.trans ((hrun n).trans hu))
  exact ⟨w, hw, hop, hdout⟩

end

/-- The edge after the completion edge clears `done_r`, keeps the result and accepts a request (43_commands.md R137). -/
theorem step_of_completed {d : Direction} {k : Key} {b : Block} {s : State} (h : Completed d k b s)
    (h0 : fieldRST (s.inputAt 0) = 0#1) :
    ∃ t, step s = .next t ∧ t.done_r = false ∧ t.dout = resultOf d k b ∧
      ∀ d' k' b', decode (s.inputAt 0) = requestOf d' k' b' → InOperation d' k' b' 0 t := by
  obtain ⟨t, ht⟩ := exists_step s
  have hnot : ¬ (s.busy_r = true ∧ s.rnd = 15#4) := by simp [h.busy]
  refine ⟨t, ht, Bool.eq_false_iff.mpr fun hd => hnot ((step_done_r_iff ht).mp hd).2,
    (step_keeps_dout ht h0 hnot).trans h.result, fun d' k' b' hr => ?_⟩
  rw [eq_of_step ht (step_of_request h.busy hr)]
  exact inOperation_accept d' k' b' s.afterSample

/-- Settles O41: the operation's invariant holds up to round 15 with `dout` kept, round 16 leaves `Completed`, and one more
edge is an idle core's. -/
theorem operationDeliversTheCipherResult : Obligations.OperationDeliversTheCipherResult := by
  intro d k b s hb hr hrst
  obtain ⟨u, hu, hc⟩ := steps_completed hb hr hrst
  refine ⟨fun j _ h15 => ?_, ⟨u, hu, hc.busy, hc.done, hc.result⟩, fun h17 => ?_⟩
  · obtain ⟨v, hv, hop, hdout⟩ := steps_inOperation_keep_dout hb hr h15 fun i h1 hi => hrst i h1 (by omega)
    exact ⟨v, hv, hop.busy, hop.done, hdout⟩
  · have hin : u.inputAt 0 = s.inputAt 17 := steps_inputAt hu 0
    rw [← hin] at h17 ⊢
    obtain ⟨v, hv, hdone, hdout, haccept⟩ := step_of_completed hc h17
    exact ⟨v, steps_snoc hu hv, hdone, hdout, haccept⟩

end Sys2Proof.Machine
end

section
/-! The two accepts (43_commands.md R131, R132). -/

namespace Sys2Proof.Machine

/-- All that an accept writes: the halves of IP(b) and of PC1(k), and the control registers. -/
theorem accept_eq (d : Direction) (k : Key) (b : Block) (s : State) :
    accept d k b s = { s with
      L := (IP b).extractLsb' 32 32, R := (IP b).extractLsb' 0 32,
      C := (PC1 k).extractLsb' 28 28, D := (PC1 k).extractLsb' 0 28,
      dir := d, rnd := 0#4, busy_r := true, done_r := false } := rfl

theorem decode_of_fieldCTL_enc {v : InVec} (h : fieldCTL v = 0b010#3) : decode v = .enc (fieldKEY v) (fieldDAT v) :=
  decode_eq_of_encode_eq (by rw [encode_enc, ← h, ← eq_vectorOf])

theorem decode_of_fieldCTL_dec {v : InVec} (h : fieldCTL v = 0b011#3) : decode v = .dec (fieldKEY v) (fieldDAT v) :=
  decode_eq_of_encode_eq (by rw [encode_dec, ← h, ← eq_vectorOf])

/-- What the examples of 43_commands.md R131 and R132 load from their key and blocks. -/
theorem load_examples :
    splitBlock 0x0123456789ABCDEF#64 = (0xCC00CCFF#32, 0xF0AAF0AA#32) ∧
    splitBlock 0x85E813540F0AB405#64 = (0x0A4CD995#32, 0x43423234#32) ∧
    loadC 0x133457799BBCDFF1#64 = 0xF0CCAAF#28 ∧ loadD 0x133457799BBCDFF1#64 = 0x556678F#28 := by decide +kernel

/-- Settles O8: the accept's writes are `accept_eq`, and no edge before the completion writes `dout`. -/
theorem encryptAcceptLoadsOperands : Obligations.EncryptAcceptLoadsOperands := by
  obtain ⟨hsplit, -, hC, hD⟩ := load_examples
  refine ⟨fun k b s hb => ?_, fun v => decode_of_fieldCTL_enc, fun k b s => exec_while_busy (by simp), fun s hb => ?_,
    fun k b s j hb hr hj hrst => ?_⟩
  · rw [exec_enc, unlessBusy_idle hb, accept_eq]
  · exact ⟨_, exec_request_of_idle hb .encrypt _ _, by rw [accept_L, hsplit], by rw [accept_R, hsplit], hC, hD, rfl⟩
  · obtain ⟨u, hu, -, hdout⟩ := steps_inOperation_keep_dout hb (d := .encrypt) hr hj hrst
    exact ⟨u, hu, hdout⟩

/-- Settles O9: as for ENCRYPT; a ciphertext joins the halves of round 16, and IP undoes the FP over them. -/
theorem decryptAcceptLoadsOperands : Obligations.DecryptAcceptLoadsOperands := by
  obtain ⟨-, hsplit, -, -⟩ := load_examples
  refine ⟨fun k b s hb => ?_, fun v => decode_of_fieldCTL_dec, fun k b s => exec_while_busy (by simp), fun k p => ?_,
    fun s hb => ?_, fun k b s j hb hr hj hrst => ?_, fun k b s hb hr hrst => ?_⟩
  · rw [exec_dec, unlessBusy_idle hb, accept_eq]
  · have hresult : DES_enc k p = joinHalves (halvesAfter .encrypt k p 16) := (joinHalves_halvesAfter .encrypt k p).symm
    rw [hresult, joinHalves, IP_FP]
  · exact ⟨_, exec_request_of_idle hb .decrypt _ _, by rw [accept_L, hsplit], by rw [accept_R, hsplit], rfl, rfl⟩
  · obtain ⟨u, hu, -, hdout⟩ := steps_inOperation_keep_dout hb (d := .decrypt) hr hj hrst
    exact ⟨u, hu, hdout⟩
  · obtain ⟨u, hu, hc⟩ := steps_completed hb (d := .decrypt) hr hrst
    exact ⟨u, hu, hc.result⟩

end Sys2Proof.Machine
end

section
/-! The ROUND step of a busy core, and the commands it drops (43_commands.md R134-R136). -/

namespace Sys2Proof.Machine

/-- The example of 43_commands.md R134: with these registers the edge is round 1 of the worked encryption. -/
theorem round_one_example {s : State} (hd : s.dir = .encrypt) (hrnd : s.rnd = 0#4) (hL : s.L = 0xCC00CCFF#32)
    (hR : s.R = 0xF0AAF0AA#32) (hC : s.C = 0xF0CCAAF#28) (hD : s.D = 0x556678F#28) :
    s.nextC = 0xE19955F#28 ∧ s.nextD = 0xAACCF1E#28 ∧ s.nextHalves = (0xF0AAF0AA#32, 0xEF4A6544#32) := by
  have hC' : s.nextC = 0xE19955F#28 := by rw [nextC_of_encrypt hd, hrnd, hC]; decide +kernel
  have hD' : s.nextD = 0xAACCF1E#28 := by rw [nextD_of_encrypt hd, hrnd, hD]; decide +kernel
  refine ⟨hC', hD', ?_⟩
  rw [State.nextHalves, State.roundKey, hL, hR, hC', hD']
  decide +kernel

/-- The example of 43_commands.md R135: with these registers the edge is round 16 of the worked encryption. -/
theorem round_sixteen_example {s : State} (hd : s.dir = .encrypt) (hrnd : s.rnd = 15#4) (hL : s.L = 0xC28C960D#32)
    (hR : s.R = 0x43423234#32) (hC : s.C = 0xF866557#28) (hD : s.D = 0xAAB33C7#28) :
    s.nextHalves = (0x43423234#32, 0x0A4CD995#32) := by
  have hC' : s.nextC = 0xF0CCAAF#28 := by rw [nextC_of_encrypt hd, hrnd, hC]; decide +kernel
  have hD' : s.nextD = 0x556678F#28 := by rw [nextD_of_encrypt hd, hrnd, hD]; decide +kernel
  rw [State.nextHalves, State.roundKey, hL, hR, hC', hD']
  decide +kernel

theorem joinHalves_example : joinHalves (0x43423234#32, 0x0A4CD995#32) = 0x85E813540F0AB405#64 := by decide +kernel

/-- Settles O11: the edge is `roundEdge`, whose writes are its field lemmas, with `dout` and the flags by the round. -/
theorem roundEdgeRunsOneRound : Obligations.RoundEdgeRunsOneRound := by
  refine ⟨fun i s hi hb => ⟨_, exec_while_busy hi hb, fun hd => ⟨nextC_of_encrypt hd, nextD_of_encrypt hd⟩,
    fun hd => ⟨nextC_of_decrypt hd, nextD_of_decrypt hd⟩, rfl, rfl, BitVec.toNat_add _ _, rfl, fun hne => ?_, fun heq => ?_⟩,
    fun i s hi hb hd hrnd hL hR hC hD => ?_⟩
  · have hrnd : s.rnd ≠ 15#4 := fun h => hne (congrArg BitVec.toNat h)
    obtain ⟨hdone, hbusy, hdout⟩ := roundEdge_outputs_of_rnd_ne hrnd
    exact ⟨hdone, hbusy.trans hb, hdout⟩
  · exact roundEdge_outputs_of_rnd_eq (BitVec.eq_of_toNat_eq heq)
  · obtain ⟨hC', hD', hhalves⟩ := round_one_example hd hrnd hL hR hC hD
    exact ⟨_, exec_while_busy hi hb, by rw [roundEdge_L, hhalves], by rw [roundEdge_R, hhalves], hC', hD',
      by rw [roundEdge_rnd, hrnd]; rfl⟩

/-- A command that changes `dout` is a RESET or meets a busy core at round 16 (43_commands.md R135). -/
theorem exec_changes_dout {i : Instr} {s t : State} (h : exec i s = .next t) (hne : t.dout ≠ s.dout) :
    (∃ a d k b, i = .rst a d k b) ∨ (s.busy_r = true ∧ s.rnd = 15#4) := by
  obtain ⟨a, d, k, b, rfl, -⟩ | ⟨-, hb, rfl⟩ | ⟨-, _, _, -, rfl⟩ | ⟨-, _, _, -, rfl⟩ | ⟨-, _, _, _, -, rfl⟩ :=
    exec_next_cases h
  · exact .inl ⟨a, d, k, b, rfl⟩
  · exact .inr ⟨hb, not_not.mp fun hrnd => hne (roundEdge_outputs_of_rnd_ne hrnd).2.2⟩
  · exact absurd rfl hne
  · exact absurd rfl hne
  · exact absurd rfl hne

/-- Settles O12: round 16 leaves an idle core with the joined halves in `dout`, and no other command but RESET writes it. -/
theorem completionWritesTheResult : Obligations.CompletionWritesTheResult := by
  refine ⟨fun i s hi hb hrnd => ?_, fun i s t => exec_changes_dout, fun i s hi hb hd hrnd hL hR hC hD => ?_⟩
  · obtain ⟨hdone, hbusy, hdout⟩ := roundEdge_outputs_of_rnd_eq hrnd
    exact ⟨_, exec_while_busy hi hb, rfl, rfl, hdout, hbusy, hdone, by rw [roundEdge_rnd, hrnd]; rfl,
      fun j u => exec_done_r_of_idle hbusy⟩
  · obtain ⟨hdone, hbusy, hdout⟩ := roundEdge_outputs_of_rnd_eq hrnd
    have hhalves := round_sixteen_example hd hrnd hL hR hC hD
    exact ⟨_, exec_while_busy hi hb, by rw [roundEdge_L, hhalves], by rw [roundEdge_R, hhalves],
      by rw [hdout, hhalves, joinHalves_example], hdone, hbusy⟩

/-- Settles O15: the edge is `roundEdge`, which writes `busy_r` and `dout` in round 16 alone. -/
theorem busyCoreCommandFrame : Obligations.BusyCoreCommandFrame := by
  intro i s t hi hb h
  obtain rfl : roundEdge s = t := Host.Outcome.next.inj ((exec_while_busy hi hb).symm.trans h)
  exact ⟨rfl, rfl, rfl, fun hrnd => (roundEdge_outputs_of_rnd_ne hrnd).2⟩

/-- Settles O16: a vector with RST = 0 is no RESET, so the edge is `roundEdge`, which stays busy before round 16. -/
theorem commandWhileBusyIsDropped : Obligations.CommandWhileBusyIsDropped := by
  intro s v hb
  have hround (h0 : fieldRST v = 0#1) := exec_while_busy (decode_ne_rst h0) hb
  refine ⟨fun h0 => ⟨hround h0, ?_⟩, fun t ht hidle => ?_⟩
  · rw [hround h0, exec_while_busy (i := lineNOP) (by simp [lineNOP]) hb]
  · obtain h0 | h0 := bit_eq_zero_or_one (fieldRST v)
    · obtain rfl : roundEdge s = t := Host.Outcome.next.inj ((hround h0).symm.trans ht)
      refine .inr (not_not.mp fun hrnd => ?_)
      obtain ⟨-, hbusy, -⟩ := roundEdge_outputs_of_rnd_ne hrnd
      exact nomatch hidle.symm.trans (hbusy.trans hb)
    · exact .inl h0

end Sys2Proof.Machine
end

section
/-! Every operation ends (43_commands.md R138, 70_reset_and_hazards.md R171). -/

namespace Sys2Proof.Machine

theorem exists_steps (n : Nat) (s : State) : ∃ t, steps n s = .next t := by
  induction n generalizing s with
  | zero => exact ⟨s, rfl⟩
  | succ n ih =>
    obtain ⟨u, hu⟩ := exists_step s
    rw [steps_succ hu]
    exact ih u

theorem noReset_of_step {s t : State} {a b : Nat} (h : step s = .next t) (hrst : noReset s (a + 1) (b + 1)) :
    noReset t a b := fun j ha hb => by
  rw [step_inputAt h]
  exact hrst (j + 1) (by omega) (by omega)

/-- With n rounds to run before round 16, a busy core completes at edge n + 1 from here, whatever its other registers
hold. -/
theorem steps_busy_completes {n : Nat} {s : State} (hb : s.busy_r = true) (hrnd : s.rnd.toNat + n = 15)
    (hrst : noReset s 0 n) : ∃ t, steps (n + 1) s = .next t ∧ t.busy_r = false ∧ t.done_r = true := by
  induction n generalizing s with
  | zero =>
    obtain ⟨hdone, hbusy, -⟩ := roundEdge_outputs_of_rnd_eq (s := s.afterSample) (BitVec.eq_of_toNat_eq hrnd)
    exact ⟨_, steps_succ (step_of_busy (hrst 0 le_rfl le_rfl) hb) 0, hbusy, hdone⟩
  | succ n ih =>
    have hne : s.rnd ≠ 15#4 := by
      intro h15
      rw [h15, BitVec.toNat_ofNat] at hrnd
      omega
    obtain ⟨-, hbusy, -⟩ := roundEdge_outputs_of_rnd_ne (s := s.afterSample) hne
    have hrnd' : (roundEdge s.afterSample).rnd.toNat + n = 15 := by
      rw [roundEdge_rnd, BitVec.toNat_add, afterSample_rnd, BitVec.toNat_ofNat]
      omega
    have hstep := step_of_busy (hrst 0 le_rfl (n + 1).zero_le) hb
    rw [steps_succ hstep]
    exact ih (hbusy.trans hb) hrnd' (noReset_of_step hstep fun j _ hj => hrst j j.zero_le hj)

/-- Settles O45: without RESET the round counter reaches 15 and the operation completes; a RESET edge before that ends it
there. -/
theorem everyOperationEnds : Obligations.EveryOperationEnds := by
  have hend (s : State) (hb : s.busy_r = true) (hrst : noReset s 0 (15 - s.rnd.toNat)) :
      ∃ t, steps (16 - s.rnd.toNat) s = .next t ∧ t.busy_r = false ∧ t.done_r = true := by
    have hlt : s.rnd.toNat < 16 := s.rnd.isLt
    have hlen : 16 - s.rnd.toNat = 15 - s.rnd.toNat + 1 := by omega
    rw [hlen]
    exact steps_busy_completes hb (by omega) hrst
  refine ⟨hend, fun s hb => ?_⟩
  have hlt : s.rnd.toNat < 16 := s.rnd.isLt
  by_cases hrst : noReset s 0 (15 - s.rnd.toNat)
  · obtain ⟨t, ht, hbusy, -⟩ := hend s hb hrst
    exact ⟨16 - s.rnd.toNat, t, by omega, by omega, ht, hbusy⟩
  · simp only [noReset, not_forall] at hrst
    obtain ⟨j, -, hj, hne⟩ := hrst
    obtain ⟨u, hu⟩ := exists_steps j s
    have h1 : fieldRST (u.inputAt 0) = 1#1 := by
      rw [steps_inputAt hu]; exact (bit_eq_zero_or_one _).resolve_left hne
    exact ⟨j + 1, _, by omega, by omega, steps_snoc hu (step_of_reset h1), rfl⟩

end Sys2Proof.Machine
end

section
/-! The idle core and the dispatch of an edge (43_commands.md R130, R133). -/

namespace Sys2Proof.Machine

/-- One IDLE edge as a whole: `done_r` cleared, one vector used up. -/
theorem idleEdge_afterSample (s : State) :
    idleEdge s.afterSample = { s with done_r := false, inputs := s.inputs.tail, draw := s.draw + 1 } := rfl

/-- Settles O52: the first edge clears `done_r`, and each further edge does nothing but use up a vector. -/
theorem idleCoreHoldsItsState : Obligations.IdleCoreHoldsItsState := by
  intro n s hb hidle
  induction n with
  | zero =>
    obtain ⟨h0, h1⟩ := hidle 0 le_rfl
    rw [steps_succ (step_of_idle h0 hb h1), idleEdge_afterSample, steps_zero, List.drop_one]
  | succ n ih =>
    have hrun := ih fun j hj => hidle j (by omega)
    have hin := steps_inputAt hrun 0
    obtain ⟨h0, h1⟩ := hidle (n + 1) le_rfl
    have hstep := step_of_idle ((congrArg fieldRST hin).trans h0) hb ((congrArg fieldSTA hin).trans h1)
    rw [steps_snoc hrun hstep, idleEdge_afterSample, List.tail_drop]
    rfl

/-- Settles O7: one lemma of the step for each test of the order. -/
theorem edgeDispatchOrder : Obligations.EdgeDispatchOrder := fun s =>
  ⟨step_of_reset, step_of_busy,
    fun h0 hb h1 h2 => step_of_request (d := .encrypt) hb (decode_of_enc h0 h1 h2),
    fun h0 hb h1 h2 => step_of_request (d := .decrypt) hb (decode_of_dec h0 h1 h2),
    step_of_idle, exists_step s⟩

/-- Settles O10: the edge is `idleEdge`, which clears `done_r` alone, and a run of them is `idleCoreHoldsItsState`. -/
theorem idleClearsDoneAlone : Obligations.IdleClearsDoneAlone := by
  refine ⟨fun d k b s hb => ?_, fun v => decode_of_nop, fun d k b s => exec_while_busy (by simp),
    fun n s hb hidle => ?_, resetRegs_busy_r⟩
  · rw [exec_nop, unlessBusy_idle hb]; rfl
  · cases n with
    | zero => exact ⟨s, rfl, hb, rfl⟩
    | succ n => exact ⟨_, idleCoreHoldsItsState n s hb fun j hj => hidle j (by omega), hb, rfl⟩

/-- An accept leaves `dout` and the host fields (43_commands.md R131, R132). -/
theorem exec_request_frame {d : Direction} {k : Key} {b : Block} {s t : State} (hb : s.busy_r = false)
    (h : exec (requestOf d k b) s = .next t) : t.dout = s.dout ∧ t.inputs = s.inputs ∧ t.draw = s.draw := by
  obtain rfl : accept d k b s = t := Host.Outcome.next.inj ((exec_request_of_idle hb d k b).symm.trans h)
  exact ⟨rfl, rfl, rfl⟩

/-- Settles O14: an accept and IDLE by their field lemmas; no command touches the host fields. -/
theorem idleCoreCommandFrame : Obligations.IdleCoreCommandFrame := by
  refine fun s t hb => ⟨fun k b h => ?_, fun d k b h => ?_, fun a d k b h => exec_keeps_host h⟩
  · obtain h | h := h
    · exact exec_request_frame (d := .encrypt) hb h
    · exact exec_request_frame (d := .decrypt) hb h
  · rw [exec_nop, unlessBusy_idle hb, Host.Outcome.next.injEq] at h
    subst h
    exact ⟨rfl, rfl, rfl, rfl, rfl, rfl, rfl, rfl, rfl, rfl⟩

end Sys2Proof.Machine
end

section
/-! Simultaneous events at one edge, power-on and several instances (60_exceptions.md R153, R157, R159). -/

namespace Sys2Proof.Machine

/-- An idle core that samples a request begins its operation (43_commands.md R131, R132). -/
theorem step_begins_operation {d : Direction} {k : Key} {b : Block} {s : State} (hb : s.busy_r = false)
    (hr : decode (s.inputAt 0) = requestOf d k b) : ∃ t, step s = .next t ∧ InOperation d k b 0 t :=
  ⟨_, step_of_request hb hr, inOperation_accept d k b s.afterSample⟩

/-- Settles O17: the lemma of the edge for each priority; completion leaves an idle core, whose next edge may accept. -/
theorem priorityAtOneEdge : Obligations.PriorityAtOneEdge := by
  refine ⟨fun s h0 => ⟨_, step_of_reset h0, rfl, rfl, rfl⟩, fun s => step_of_busy, fun s d k b h0 hb hrnd hr => ?_,
    fun s d k b => step_begins_operation, fun s hb h0 => step_of_idle h0 hb⟩
  have hround := step_of_busy h0 hb
  obtain ⟨hdone, hbusy, -⟩ := roundEdge_outputs_of_rnd_eq (s := s.afterSample) hrnd
  obtain ⟨u, hu, hop⟩ := step_begins_operation hbusy ((congrArg decode (step_inputAt hround 0)).trans hr)
  exact ⟨_, u, hround, hbusy, hdone, hu, hop⟩

/-- After a RESET edge only the host fields remain of what was there (70_reset_and_hazards.md R170). -/
theorem resetRegs_eq_reset (s : State) : resetRegs s = { State.reset with inputs := s.inputs, draw := s.draw } := rfl

/-- Settles O54: a RESET edge reads no register, so no value that power-on left remains. -/
theorem resetMakesPowerOnStateKnown : Obligations.ResetMakesPowerOnStateKnown := by
  intro s h0
  rw [step_of_reset h0, resetRegs_eq_reset, afterSample_inputs, afterSample_draw, powerOn_inputs, powerOn_draw]

section
variable {i : Nat} {cores : List State}

theorem stepInstance_of_absent (h : cores[i]? = none) : stepInstance i cores = .next cores := by
  rw [stepInstance, h]

theorem stepInstance_of_step {s t : State} (h : cores[i]? = some s) (ht : step s = .next t) :
    stepInstance i cores = .next (cores.set i t) := by
  simp only [stepInstance, h, ht]

end

/-- Settles O55: an edge of an absent instance does nothing, that of a present one writes its own place of the list. -/
theorem instancesShareNothing : Obligations.InstancesShareNothing := by
  intro i cores
  cases hi : cores[i]? with
  | none => exact ⟨cores, stepInstance_of_absent hi, rfl, fun j _ => rfl, nofun⟩
  | some s =>
    obtain ⟨t, ht⟩ := exists_step s
    obtain ⟨hlt, -⟩ := List.getElem?_eq_some_iff.mp hi
    refine ⟨cores.set i t, stepInstance_of_step hi ht, List.length_set, fun j hj => List.getElem?_set_ne hj.symm,
      fun s' hs' => ?_⟩
    obtain rfl : s = s' := Option.some.inj hs'
    exact ⟨t, ht, List.getElem?_set_self hlt⟩

end Sys2Proof.Machine
end

section
/-! RESET in every state, and what a core shows after it (70_reset_and_hazards.md R170, R173, R178). -/

namespace Sys2Proof.Machine

/-- The mnemonic RST names RESET alone (30_encoding.md R67). -/
theorem exec_of_mnemonic_rst {i : Instr} (h : i.mnemonic = "RST") (s : State) : exec i s = .next (resetRegs s) := by
  cases i with
  | rst a d k b => rfl
  | enc k b => exact absurd h (by decide : "ENC" ≠ "RST")
  | dec k b => exact absurd h (by decide : "DEC" ≠ "RST")
  | nop d k b => exact absurd h (by decide : "NOP" ≠ "RST")

@[simp] theorem resetRegs_resetRegs (s : State) : resetRegs (resetRegs s) = resetRegs s := rfl

/-- Settles O13: every RESET is `resetRegs`, which reads no register and so does nothing the second time. -/
theorem resetClearsEveryRegister : Obligations.ResetClearsEveryRegister := by
  refine ⟨fun _ _ _ _ _ => rfl, fun v h => ⟨_, _, _, _, decode_of_rst h⟩, fun i i' s t u hi hi' ht hu => ?_,
    fun s h0 => by rw [step_of_reset h0, resetRegs_eq_reset]; rfl, fun _ _ _ _ => rfl⟩
  rw [exec_of_mnemonic_rst hi, Host.Outcome.next.injEq] at ht
  subst ht
  rw [exec_of_mnemonic_rst hi', resetRegs_resetRegs, Host.Outcome.next.injEq] at hu
  exact hu.symm

/-- An idle core that shows nothing: every output is 0 (70_reset_and_hazards.md R173). -/
structure OutputsCleared (s : State) : Prop where
  busy : s.busy_r = false
  done : s.done_r = false
  dout : s.dout = 0#64

theorem outputsCleared_resetRegs (s : State) : OutputsCleared (resetRegs s) := ⟨rfl, rfl, rfl⟩

/-- An edge that starts nothing is a RESET or an IDLE edge of such a core, and both keep the outputs 0. -/
theorem step_keeps_outputsCleared {s t : State} (hs : OutputsCleared s) (h1 : fieldSTA (s.inputAt 0) = 0#1)
    (h : step s = .next t) : OutputsCleared t := by
  obtain ⟨-, rfl⟩ | ⟨-, hb, -⟩ | ⟨-, -, hsta, -⟩ | ⟨-, -, -, rfl⟩ := step_next_cases h
  · exact outputsCleared_resetRegs _
  · exact nomatch hs.busy.symm.trans hb
  · exact absurd (h1.symm.trans hsta) (by decide)
  · exact ⟨hs.busy, rfl, hs.dout⟩

/-- A RESET edge, and any number of edges after it that start nothing, leave the outputs 0. -/
theorem steps_outputsCleared_of_reset {s : State} (m : Nat) (h0 : fieldRST (s.inputAt 0) = 1#1)
    (hidle : ∀ j, 1 ≤ j → j ≤ m → fieldSTA (s.inputAt j) = 0#1) :
    ∃ t, steps (m + 1) s = .next t ∧ OutputsCleared t := by
  induction m with
  | zero => exact ⟨_, steps_succ (step_of_reset h0) 0, outputsCleared_resetRegs _⟩
  | succ m ih =>
    obtain ⟨t, ht, hclear⟩ := ih fun j h1 hj => hidle j h1 (by omega)
    obtain ⟨u, hu⟩ := exists_step t
    have hsta : fieldSTA (t.inputAt 0) = 0#1 := by
      rw [steps_inputAt ht]; exact hidle (m + 1) (by omega) le_rfl
    exact ⟨u, steps_snoc ht hu, step_keeps_outputsCleared hclear hsta hu⟩

/-- Settles O48: RESET clears the outputs and edges that start nothing keep them 0; a ROUND step before round 16 shows
nothing. -/
theorem resetAbandonsTheOperation : Obligations.ResetAbandonsTheOperation := by
  refine fun d k b n s hop => ⟨fun m h0 hidle => ?_, fun h0 hn => ?_⟩
  · obtain ⟨t, ht, hclear⟩ := steps_outputsCleared_of_reset m h0 hidle
    exact ⟨t, ht, hclear.busy, hclear.done, hclear.dout⟩
  · obtain ⟨hdone, -, hdout⟩ := roundEdge_outputs_of_rnd_ne (s := s.afterSample) (hop.rnd_ne_of_lt hn)
    exact ⟨_, step_of_busy h0 hop.busy, hdone, hdout⟩

/-- A request at the edge right after a RESET edge begins its operation (70_reset_and_hazards.md R173). -/
theorem step_resetRegs_begins_operation {d : Direction} {k : Key} {b : Block} {s : State}
    (hr : decode (s.inputAt 1) = requestOf d k b) :
    ∃ u, step (resetRegs s.afterSample) = .next u ∧ InOperation d k b 0 u :=
  step_begins_operation rfl (by rwa [resetRegs_inputAt, afterSample_inputAt])

/-- Settles O49: RESET leaves an idle core with its outputs 0, and an idle core accepts. -/
theorem resetCoreAcceptsAtTheNextEdge : Obligations.ResetCoreAcceptsAtTheNextEdge := fun _ h0 =>
  ⟨_, step_of_reset h0, rfl, rfl, rfl, fun _ _ _ => step_resetRegs_begins_operation⟩

end Sys2Proof.Machine
end

section
/-! Operations back to back, and the timing table (70_reset_and_hazards.md R176, R179). -/

namespace Sys2Proof.Machine

theorem noReset_mono {s : State} {a b a' b' : Nat} (h : noReset s a b) (ha : a ≤ a') (hb : b' ≤ b) :
    noReset s a' b' := fun j h1 h2 => h j (ha.trans h1) (h2.trans hb)

/-- The operation that `start` requests is the one whose direction DIR names (30_encoding.md R62). -/
theorem decode_eq_requestOf_bit {v : InVec} {d : Direction} (h0 : fieldRST v = 0#1) (h1 : fieldSTA v = 1#1)
    (hd : d.bit = fieldDIR v) : decode v = requestOf d (fieldKEY v) (fieldDAT v) := by
  cases d with
  | encrypt => exact decode_of_enc h0 h1 hd.symm
  | decrypt => exact decode_of_dec h0 h1 hd.symm

/-- Settles O50: the operation accepted at edge 0 is in progress up to edge 16, whatever `start` is, and the core that
completes it accepts at edge 17. -/
theorem startHeldHighRepeats : Obligations.StartHeldHighRepeats := by
  intro s d hb hrst hsta hd
  obtain ⟨d₀, -, hr⟩ := decode_eq_request (hrst 0 le_rfl (by decide)) (hsta 0 (by decide))
  have hrun {n : Nat} (hn : n ≤ 15) :=
    steps_inOperation hb hr hn (noReset_mono hrst (by decide) (by omega))
  obtain ⟨u, hu, hc⟩ := steps_completed hb hr (noReset_mono hrst (by decide) (by decide))
  refine ⟨?_, fun j h1 h16 => ?_, ⟨u, hu, hc.busy, hc.done⟩, ?_⟩
  · exact ⟨_, steps_succ (step_of_request hb hr) 0, rfl, rfl⟩
  · obtain ⟨n, rfl⟩ := Nat.exists_eq_add_of_le' h1
    obtain ⟨t, ht, hop⟩ := hrun (n := n) (by omega)
    have h0 : fieldRST (t.inputAt 0) = 0#1 := by
      rw [steps_inputAt ht]; exact hrst (n + 1) (by omega) (by omega)
    exact ⟨t, ht, hop.busy, steps_snoc ht (step_of_busy h0 hop.busy)⟩
  · have hnext := decode_eq_requestOf_bit (hrst 17 (by decide) le_rfl) (hsta 17 le_rfl) hd
    obtain ⟨t, ht, hop⟩ := step_begins_operation hc.busy ((congrArg decode (steps_inputAt hu 0)).trans hnext)
    exact ⟨t, steps_snoc hu ht, hop⟩

/-- Settles O51: the invariant up to round 15, `operationDeliversTheCipherResult` from the completion edge on,
and an accept right after RESET. -/
theorem latencyAndThroughput : Obligations.LatencyAndThroughput := by
  refine ⟨rfl, rfl, fun d k b s hb hr hrst => ?_, fun d k b s h0 hr => ?_⟩
  · obtain ⟨-, hresult, hafter⟩ :=
      operationDeliversTheCipherResult d k b s hb hr (noReset_mono hrst le_rfl (by decide))
    obtain ⟨u, hu, hdone, -, haccept⟩ := hafter (hrst 17 (by decide) le_rfl)
    refine ⟨fun m t h1 h16 ht => ?_, hresult, ⟨u, hu, hdone⟩, fun d' k' b' hr' => ⟨u, hu, haccept d' k' b' hr'⟩⟩
    obtain ⟨n, rfl⟩ := Nat.exists_eq_add_of_le' h1
    have hn : n ≤ 15 := Nat.le_of_succ_le_succ h16
    obtain ⟨v, hv, hop⟩ := steps_inOperation hb hr hn (noReset_mono hrst le_rfl (hn.trans (by decide)))
    obtain rfl : v = t := Host.Outcome.next.inj (hv.symm.trans ht)
    exact ⟨hop.busy, hop.done⟩
  · obtain ⟨u, hu, hop⟩ := step_resetRegs_begins_operation hr
    exact ⟨u, steps_snoc (steps_succ (step_of_reset h0) 0) hu, hop⟩

end Sys2Proof.Machine
end

section
/-! After the accept edge the operation reads none of its inputs (70_reset_and_hazards.md R177). -/

namespace Sys2Proof.Machine

/-- The writes of an accept read none of the vectors still to come. -/
theorem accept_drive_afterSample (d : Direction) (k : Key) (b : Block) (s : State) (vs : List InVec) :
    accept d k b (s.drive vs).afterSample = (accept d k b s.afterSample).drive vs.tail := rfl

/-- The writes of a ROUND step read no vector at all. -/
theorem roundEdge_drive_afterSample (s : State) (vs : List InVec) :
    roundEdge (s.drive vs).afterSample = (roundEdge s.afterSample).drive vs.tail := rfl

/-- Two runs that share the accepted vector and see no RESET have equal registers after each edge of the
operation: every edge after the accept edge is a ROUND step in both. -/
theorem steps_operation_eq_drive {d : Direction} {k : Key} {b : Block} {s : State} {vs : List InVec} {n : Nat}
    (hb : s.busy_r = false) (hr : decode (s.inputAt 0) = requestOf d k b)
    (hr' : decode ((s.drive vs).inputAt 0) = requestOf d k b) (hn : n ≤ 16) (hrst : noReset s 1 n)
    (hrst' : noReset (s.drive vs) 1 n) :
    ∃ t ws, steps (n + 1) s = .next t ∧ steps (n + 1) (s.drive vs) = .next (t.drive ws) := by
  induction n with
  | zero =>
    refine ⟨_, vs.tail, steps_succ (step_of_request hb hr) 0, ?_⟩
    rw [steps_succ (step_of_request (s := s.drive vs) hb hr'), accept_drive_afterSample, steps_zero]
  | succ n ih =>
    obtain ⟨t, ws, ht, ht'⟩ :=
      ih (by omega) (noReset_mono hrst le_rfl n.le_succ) (noReset_mono hrst' le_rfl n.le_succ)
    obtain ⟨u, hu, hop⟩ := steps_inOperation hb hr (n := n) (by omega) (noReset_mono hrst le_rfl n.le_succ)
    obtain rfl : u = t := Host.Outcome.next.inj (hu.symm.trans ht)
    have h0 : fieldRST (u.inputAt 0) = 0#1 := by
      rw [steps_inputAt ht]; exact hrst (n + 1) (by omega) le_rfl
    have h0' : fieldRST ((u.drive ws).inputAt 0) = 0#1 := by
      rw [steps_inputAt ht']; exact hrst' (n + 1) (by omega) le_rfl
    refine ⟨_, ws.tail, steps_snoc ht (step_of_busy h0 hop.busy), ?_⟩
    rw [steps_snoc ht' (step_of_busy (s := u.drive ws) h0' hop.busy), roundEdge_drive_afterSample]

/-- Settles O47: an edge that is no accept reads no field but RST and STA; after the accept edge
an operation has only such edges. -/
theorem inputsAreSampledOnlyAtAccept : Obligations.InputsAreSampledOnlyAtAccept := by
  refine ⟨fun s v v' hrst hsta hno => ?_, fun s v vs vs' n hb h0 h1 hn hrst hrst' => ?_⟩
  · obtain ⟨hreset, hidle, hbusy⟩ := ignoredFieldsHaveNoEffect s v v'
    obtain hb | h0 | h1 := hno
    · exact hbusy hb hrst
    · exact hreset h0 (hrst.symm.trans h0)
    · obtain h0 | h0 := bit_eq_zero_or_one (fieldRST v)
      · exact hidle h0 (hrst.symm.trans h0) h1 (hsta.symm.trans h1)
      · exact hreset h0 (hrst.symm.trans h0)
  · obtain ⟨d, -, hr⟩ := decode_eq_request h0 h1
    obtain ⟨t, ws, ht, ht'⟩ :=
      steps_operation_eq_drive (s := s.drive (v :: vs)) (vs := v :: vs') hb hr hr hn hrst hrst'
    exact ⟨t, t.drive ws, ht, ht', rfl⟩

end Sys2Proof.Machine
end
